-- ==== Sys2Proof/Word.lean ====
section
/-! DEFINITION. The value types of 00_scope.md R7: bytes, the 24-bit command word, and the 5-bit counters. -/

namespace Sys2Proof

/-- A byte: an unsigned value 0..255 (R7). `+` on it is modulo 256 (R8). -/
abbrev Byte := BitVec 8

/-- A command word (30_encoding.md R80). -/
abbrev CmdWord := BitVec 24

/-- A 5-bit counter or length (10_state.md R25, R26, R28, R33, R35). -/
abbrev Count := BitVec 5

end Sys2Proof
end

