-- ==== Sys2Proof/Syntax.lean ====
section
/-! DEFINITION. The sixteen operations of 30_encoding.md R82, one constructor for each row of the opcode table. -/

namespace Sys2Proof

/-- The two channels (00_scope.md R3): 0 is BUS, 1 is LINK. -/
inductive Channel where
  | bus
  | link
deriving DecidableEq, Repr

/-- The operations of R82. An operand byte is kept as the word carries it: the ranges of R84 are checks of
WellFormed.lean and, with the refusal they name, of the meanings. -/
inductive Instr where
  /-- NOP (43_control.md R230). -/
  | nop
  /-- CRC_STEP (40_checksum.md R124): accumulator, data byte. -/
  | crcStep (acc data : Byte)
  /-- SUM_STEP (40_checksum.md R128): accumulator, data byte. -/
  | sumStep (acc data : Byte)
  /-- RX_BYTE (41_frame_parser.md R151): channel, received byte. -/
  | rxByte (ch : Channel) (data : Byte)
  /-- RX_BREAK (41_frame_parser.md R164): channel. -/
  | rxBreak (ch : Channel)
  /-- FRM_READ (41_frame_parser.md R166): channel, index. -/
  | frmRead (ch : Channel) (idx : Byte)
  /-- FRM_INFO (41_frame_parser.md R167): channel. -/
  | frmInfo (ch : Channel)
  /-- FRM_RELEASE (41_frame_parser.md R168): channel. -/
  | frmRelease (ch : Channel)
  /-- STG_WRITE (42_arbiter.md R191): index, byte. -/
  | stgWrite (idx data : Byte)
  /-- TX_QUEUE (42_arbiter.md R192): length. -/
  | txQueue (len : Byte)
  /-- TICK (42_arbiter.md R194). -/
  | tick
  /-- TX_BREAK_DONE (42_arbiter.md R198). -/
  | txBreakDone
  /-- TX_BYTE_DONE (42_arbiter.md R199). -/
  | txByteDone
  /-- TX_IDLE (42_arbiter.md R200). -/
  | txIdle
  /-- STAT_READ (43_control.md R231): channel, selector. -/
  | statRead (ch : Channel) (sel : Byte)
  /-- RESET (43_control.md R233). -/
  | reset
deriving DecidableEq, Repr

end Sys2Proof
end

