-- ==== Sys2Proof/Config.lean ====
section
/-! DEFINITION. The parameters of 00_scope.md R6 and the one free value (10_state.md R42). -/

namespace Sys2Proof

/-- The address spaces of 20_memory.md R60, one for each byte array. -/
inductive Space where
  | rxbuf (ch : Channel)
  | frame (ch : Channel)
  | stg
  | pbuf
  | txbuf
deriving DecidableEq, Repr

/-- The open parameters that reach the block's transitions: only `RESP_DELAY` (92_eei_decisions.md, D20). -/
structure Config where
  /-- `RESP_DELAY`, in ticks (42_arbiter.md R195). -/
  respDelay : BitVec 8
deriving DecidableEq, Repr

/-- `RESP_DELAY` is legal in 1..255 (R195). -/
abbrev Config.Legal (c : Config) : Prop := 1 ≤ c.respDelay.toNat

/-- The source's reference design: three ticks (R6, R195). -/
def Config.reference : Config := { respDelay := 3 }

/-- `CRC_POLY` (R6, 40_checksum.md R120); the x^8 term is implicit. -/
def Config.crcPoly : Byte := 0x07

/-- `CRC_INIT` (R6, 40_checksum.md R120). -/
def Config.crcInit : Byte := 0xF3

/-- `SYNC`, the LINK sync byte (R6, 41_frame_parser.md R152). -/
def Config.sync : Byte := 0x55

/-- `SUM_SEED`, equal to `SYNC` (R6, 40_checksum.md R126). -/
def Config.sumSeed : Byte := 0x55

/-- `MAX_LEN`, the largest declared payload length (R6). -/
def Config.maxLen : Nat := 15

/-- `HDR`, the bytes counted around the payload (R6, 30_encoding.md R95). -/
def Config.hdr : Nat := 3

/-- `CAP`, the bytes of every buffer: `HDR + MAX_LEN` (R6, 10_state.md R24). -/
def Config.cap : Nat := 18

/-- The free value of R42 and 20_memory.md R61: what a read of an unwritten byte yields, by the number of the operation
that reads, the array and the index. It has no body, so nothing constrains it (log 4). -/
opaque Config.freeByte : Nat → Space → Nat → Byte

end Sys2Proof
end

