-- ==== Sys2Proof/WellFormed.lean ====
section
/-! DEFINITION. The operand ranges of 30_encoding.md R84. An instruction outside them decodes (R87) and is refused
when it is performed. -/

namespace Sys2Proof

/-- FRM_READ and STG_WRITE: an index is 0..17. -/
def indexInRange (idx : Byte) : Bool := decide (idx.toNat ≤ 17)

/-- TX_QUEUE: a length is 1..18. -/
def lengthInRange (len : Byte) : Bool := decide (1 ≤ len.toNat ∧ len.toNat ≤ 18)

/-- STAT_READ: the pairs of channel and selector that 43_control.md R232 lists. -/
def selectorInTable (ch : Channel) (sel : Byte) : Bool :=
  match ch with
  | .bus => decide (sel.toNat ≤ 7)
  | .link => decide (sel.toNat = 5 ∨ sel.toNat = 6)

/-- Every operand is in its range (R84). -/
def Instr.wellFormed : Instr → Bool
  | .nop => true
  | .crcStep _ _ => true
  | .sumStep _ _ => true
  | .rxByte _ _ => true
  | .rxBreak _ => true
  | .frmRead _ idx => indexInRange idx
  | .frmInfo _ => true
  | .frmRelease _ => true
  | .stgWrite idx _ => indexInRange idx
  | .txQueue len => lengthInRange len
  | .tick => true
  | .txBreakDone => true
  | .txByteDone => true
  | .txIdle => true
  | .statRead ch sel => selectorInTable ch sel
  | .reset => true

end Sys2Proof
end

