-- ==== Sys2Proof/Decode.lean ====
section
/-! DEFINITION. The operation encoding of 30_encoding.md Part A: the command word's fields (R80), the opcode map (R82),
the reserved encodings (R83), and the encoder. -/

namespace Sys2Proof

/-! ### Fields (R80) -/

/-- `op`, bits 23:20. -/
def opField (w : CmdWord) : BitVec 4 := w.extractLsb' 20 4

/-- `ch`, bit 19. -/
def chField (w : CmdWord) : BitVec 1 := w.extractLsb' 19 1

/-- `z`, bits 18:16, reserved. -/
def zField (w : CmdWord) : BitVec 3 := w.extractLsb' 16 3

/-- `a`, bits 15:8. -/
def aField (w : CmdWord) : Byte := w.extractLsb' 8 8

/-- `b`, bits 7:0. -/
def bField (w : CmdWord) : Byte := w.extractLsb' 0 8

/-- The channel a `ch` bit selects (R80, R81). -/
def channelOf (c : BitVec 1) : Channel := if c = 0 then .bus else .link

/-- The `ch` bit of a channel (R80). -/
def channelBit : Channel → BitVec 1
  | .bus => 0
  | .link => 1

/-! ### Opcode map (R82) -/

/-- Which fields an opcode uses; a field it does not use must be zero. -/
structure FieldUse where
  ch : Bool
  a : Bool
  b : Bool
deriving DecidableEq, Repr

/-- The ch, a and b columns of R82. -/
def fieldUse (op : BitVec 4) : FieldUse :=
  match op.toNat with
  | 0x0 => ⟨false, false, false⟩  -- NOP
  | 0x1 => ⟨false, true, true⟩    -- CRC_STEP
  | 0x2 => ⟨false, true, true⟩    -- SUM_STEP
  | 0x3 => ⟨true, false, true⟩    -- RX_BYTE
  | 0x4 => ⟨true, false, false⟩   -- RX_BREAK
  | 0x5 => ⟨true, false, true⟩    -- FRM_READ
  | 0x6 => ⟨true, false, false⟩   -- FRM_INFO
  | 0x7 => ⟨true, false, false⟩   -- FRM_RELEASE
  | 0x8 => ⟨false, true, true⟩    -- STG_WRITE
  | 0x9 => ⟨false, false, true⟩   -- TX_QUEUE
  | 0xA => ⟨false, false, false⟩  -- TICK
  | 0xB => ⟨false, false, false⟩  -- TX_BREAK_DONE
  | 0xC => ⟨false, false, false⟩  -- TX_BYTE_DONE
  | 0xD => ⟨false, false, false⟩  -- TX_IDLE
  | 0xE => ⟨true, false, true⟩    -- STAT_READ
  | _ => ⟨false, false, false⟩    -- 0xF, RESET: the sixteenth and last

/-- The operation an opcode selects, with its operands (R82: all sixteen are assigned). -/
def operation (op : BitVec 4) (c : Channel) (a b : Byte) : Instr :=
  match op.toNat with
  | 0x0 => .nop
  | 0x1 => .crcStep a b
  | 0x2 => .sumStep a b
  | 0x3 => .rxByte c b
  | 0x4 => .rxBreak c
  | 0x5 => .frmRead c b
  | 0x6 => .frmInfo c
  | 0x7 => .frmRelease c
  | 0x8 => .stgWrite a b
  | 0x9 => .txQueue b
  | 0xA => .tick
  | 0xB => .txBreakDone
  | 0xC => .txByteDone
  | 0xD => .txIdle
  | 0xE => .statRead c b
  | _ => .reset  -- 0xF, the sixteenth and last

/-! ### Decoder (R83, R87) -/

/-- Which check of R83 a reserved word fails first. All three are the reason `REF_RSVD` (log 11). -/
inductive Reserved where
  /-- R83 item 1: `z` is not 000. -/
  | zField
  /-- R83 item 2: `ch = 1` for an opcode without a channel. -/
  | channel
  /-- R83 item 3: `a` or `b` is not zero where R82 says 0. -/
  | operand
deriving DecidableEq, Repr

/-- The decoder: every 24-bit word is one operation or reserved (R87); the checks in R83's order. -/
def decode (w : CmdWord) : Except Reserved Instr :=
  let use := fieldUse (opField w)
  if zField w ≠ 0 then .error .zField
  else if chField w ≠ 0 ∧ use.ch = false then .error .channel
  else if (aField w ≠ 0 ∧ use.a = false) ∨ (bField w ≠ 0 ∧ use.b = false) then .error .operand
  else .ok (operation (opField w) (channelOf (chField w)) (aField w) (bField w))

/-- The instruction the decoder reads from the low `nbits` bits of `w` (R80: a word has 24 bits; a longer one is none). -/
def decodeTableWord (nbits w : Nat) : Option Instr :=
  if nbits ≤ 24 then (decode (BitVec.ofNat 24 (w % 2 ^ nbits))).toOption else none

/-! ### Encoder -/

/-- The word of an opcode, channel and operands, `z` being 000 (R80). -/
def cmdWord (op : BitVec 4) (c : Channel) (a b : Byte) : CmdWord :=
  op ++ channelBit c ++ (0 : BitVec 3) ++ a ++ b

/-- The command word of an operation; a field R82 gives as 0 is zero. -/
def encode : Instr → CmdWord
  | .nop => cmdWord 0x0 .bus 0 0
  | .crcStep acc data => cmdWord 0x1 .bus acc data
  | .sumStep acc data => cmdWord 0x2 .bus acc data
  | .rxByte ch data => cmdWord 0x3 ch 0 data
  | .rxBreak ch => cmdWord 0x4 ch 0 0
  | .frmRead ch idx => cmdWord 0x5 ch 0 idx
  | .frmInfo ch => cmdWord 0x6 ch 0 0
  | .frmRelease ch => cmdWord 0x7 ch 0 0
  | .stgWrite idx data => cmdWord 0x8 .bus idx data
  | .txQueue len => cmdWord 0x9 .bus 0 len
  | .tick => cmdWord 0xA .bus 0 0
  | .txBreakDone => cmdWord 0xB .bus 0 0
  | .txByteDone => cmdWord 0xC .bus 0 0
  | .txIdle => cmdWord 0xD .bus 0 0
  | .statRead ch sel => cmdWord 0xE ch 0 sel
  | .reset => cmdWord 0xF .bus 0 0

/-! ### Match and mask (R82) -/

/-- One row of the match and mask table of R82. -/
structure OpcodeRow where
  pattern : CmdWord
  mask : CmdWord
deriving DecidableEq, Repr

/-- The row of each operation: the match is `op << 20`, the mask leaves the free fields out. -/
def rowOf : Instr → OpcodeRow
  | .nop => ⟨0x000000, 0xFFFFFF⟩
  | .crcStep _ _ => ⟨0x100000, 0xFF0000⟩
  | .sumStep _ _ => ⟨0x200000, 0xFF0000⟩
  | .rxByte _ _ => ⟨0x300000, 0xF7FF00⟩
  | .rxBreak _ => ⟨0x400000, 0xF7FFFF⟩
  | .frmRead _ _ => ⟨0x500000, 0xF7FF00⟩
  | .frmInfo _ => ⟨0x600000, 0xF7FFFF⟩
  | .frmRelease _ => ⟨0x700000, 0xF7FFFF⟩
  | .stgWrite _ _ => ⟨0x800000, 0xFF0000⟩
  | .txQueue _ => ⟨0x900000, 0xFFFF00⟩
  | .tick => ⟨0xA00000, 0xFFFFFF⟩
  | .txBreakDone => ⟨0xB00000, 0xFFFFFF⟩
  | .txByteDone => ⟨0xC00000, 0xFFFFFF⟩
  | .txIdle => ⟨0xD00000, 0xFFFFFF⟩
  | .statRead _ _ => ⟨0xE00000, 0xF7FF00⟩
  | .reset => ⟨0xF00000, 0xFFFFFF⟩

/-- The sixteen rows in opcode order. -/
def opcodeRows : List OpcodeRow :=
  [ rowOf .nop, rowOf (.crcStep 0 0), rowOf (.sumStep 0 0), rowOf (.rxByte .bus 0),
    rowOf (.rxBreak .bus), rowOf (.frmRead .bus 0), rowOf (.frmInfo .bus), rowOf (.frmRelease .bus),
    rowOf (.stgWrite 0 0), rowOf (.txQueue 0), rowOf .tick, rowOf .txBreakDone,
    rowOf .txByteDone, rowOf .txIdle, rowOf (.statRead .bus 0), rowOf .reset ]

/-- A word selects a row when `w & mask == match` (R82). -/
def OpcodeRow.selects (row : OpcodeRow) (w : CmdWord) : Bool := w &&& row.mask == row.pattern

end Sys2Proof
end

