-- ==== Sys2Proof/Machine/State.lean ====
section
/-! DEFINITION. The architectural state of 10_state.md R22, the model's own fields beside it, the reasons a step can
stop, and the state right after reset (R41). -/

namespace Sys2Proof.Machine

open Sys2Proof

/-- `PST` (R23). The encoding 3 is never written, so it is no value (93 I8). -/
inductive PState where
  | idle
  | headerCollecting
  | payloadCollecting
deriving DecidableEq, Repr

/-- `AST` (R30). The encodings 5..7 are never written, so they are no values (93 I8). -/
inductive AState where
  | listen
  | pending
  | txBreak
  | txShift
  | txDrain
deriving DecidableEq, Repr

/-- A byte array of 20_memory.md R60 as its WRITTEN bytes (R42), by rising index: an index not listed is unwritten. -/
abbrev Buf := List Host.Cell

/-- One channel's parser state and published frame (R23 to R29). -/
structure Chan where
  /-- `PST[c]` (R23). -/
  pst : PState
  /-- `RXBUF[c]` (R24). -/
  rxbuf : Buf
  /-- `CNT[c]` (R25). -/
  cnt : Count
  /-- `EXP[c]` (R26). -/
  exp : Count
  /-- `FRAME[c]` (R27). -/
  frame : Buf
  /-- `FLEN[c]` (R28). -/
  flen : Count
  /-- `RDY[c]` (R29). -/
  rdy : Bool
deriving DecidableEq, Repr

/-- The machine's state: R22's elements, then the model's own fields (`r`, `draws`, `cmds`, `cfg`). -/
structure State where
  /-- Channel 0's parser (R3, R22). -/
  bus : Chan
  /-- Channel 1's parser (R3, R22). -/
  link : Chan
  /-- `AST` (R30). -/
  ast : AState
  /-- `DLY` (R31). -/
  dly : BitVec 8
  /-- `PEND` (R32). -/
  pend : Bool
  /-- `PBUF` (R33). -/
  pbuf : Buf
  /-- `PLEN` (R33). -/
  plen : Count
  /-- `STG` (R34). -/
  stg : Buf
  /-- `TXBUF` (R35). -/
  txbuf : Buf
  /-- `TXLEN` (R35). -/
  txlen : Count
  /-- `TXIDX` (R35). -/
  txidx : Count
  /-- The result port: the value the last performed operation drove (30_encoding.md R86). The model's own (log 3). -/
  r : Byte
  /-- The number of the next operation, which numbers its draws of unwritten bytes (R42). The model's own (log 4). -/
  draws : Nat
  /-- The command words issued and not yet performed, in the order they are performed (R10). The model's own (log 1). -/
  cmds : List CmdWord
  /-- The parameters, fixed for the life of the block (70_reset_and_hazards.md R282). The model's own (log 5). -/
  cfg : Config
deriving DecidableEq, Repr

/-- The block has no faults (60_exceptions.md R250); this one is the model's. -/
inductive Fault where
  /-- An internal buffer access outside 0..17, where R61's "requires" does not hold. Raised by the transmission start with
  `PLEN > 18` and by STAT_READ of `TX_DATA` with `TXIDX > 17`, both in states that R38 rules out. Safe (log 6). -/
  | bufIndex
deriving DecidableEq, Repr

/-- The refusal reasons of 60_exceptions.md R252, and the host's. -/
inductive Refusal where
  /-- No meaning written yet. Raised by exec's arms only; no arm raises it now. Safe. -/
  | notModelled (mnemonic : String)
  /-- `REF_RSVD`: a reserved field is not zero (30_encoding.md R83). Raised by the step, from the decoder. Safe. -/
  | rsvd
  /-- `REF_INDEX`: an index operand above 17 (R84). Raised by FRM_READ and STG_WRITE. Safe. -/
  | index
  /-- `REF_LEN`: a length of 0 or above 18 (R84). Raised by TX_QUEUE. Safe. -/
  | len
  /-- `REF_SEL`: no such view (R84, 43_control.md R232). Raised by STAT_READ. Safe. -/
  | sel
  /-- `REF_PHASE`: a transport event out of phase (42_arbiter.md R201). Raised by TX_BREAK_DONE, TX_BYTE_DONE, TX_IDLE. Safe. -/
  | phase
deriving DecidableEq, Repr

/-- A channel after reset (R41): Idle, no count, no frame, every byte unwritten. -/
def Chan.reset : Chan :=
  { pst := .idle, rxbuf := [], cnt := 0, exp := 0, frame := [], flen := 0, rdy := false }

/-- The machine right after reset (R41, R280). The model's own fields: no result driven yet (0, log 3), draw number 0
(log 4), no command issued (log 1), the reference `RESP_DELAY` (log 5). -/
def State.reset : State :=
  { bus := Chan.reset, link := Chan.reset,
    ast := .listen, dly := 0, pend := false, pbuf := [], plen := 0, stg := [],
    txbuf := [], txlen := 0, txidx := 0,
    r := 0, draws := 0, cmds := [], cfg := Config.reference }

end Sys2Proof.Machine
end

