-- ==== Sys2Proof/Machine/Ops.lean ====
section
/-! DEFINITION. The named operations over the byte arrays (20_memory.md R60, R61), the two channels, and the end of an
operation (00_scope.md R11). The block takes no exception and returns from none (60_exceptions.md R250, R258, R259):
there is no such operation here. -/

namespace Sys2Proof.Machine

open Sys2Proof

/-! ### Byte arrays -/

/-- The byte at an index, if it is written (R42). The one place that says what an unlisted index reads as: unwritten. -/
def Buf.read? : Buf → Nat → Option Byte
  | [], _ => none
  | (j, v) :: rest, i => if i = j then some v else Buf.read? rest i

/-- `BufWrite` (R61): the byte becomes written, every other byte is as before. -/
def Buf.write : Buf → Nat → Byte → Buf
  | [], i, v => [(i, v)]
  | (j, w) :: rest, i, v =>
    if i < j then (i, v) :: (j, w) :: rest
    else if i = j then (i, v) :: rest
    else (j, w) :: Buf.write rest i v

/-- Bytes 0..n-1 of `dst` become those of `src`, value and written-ness (R42); `dst`'s other bytes stay. -/
def Buf.copy (n : Nat) (src dst : Buf) : Buf :=
  src.filter (fun c => decide (c.1 < n)) ++ dst.filter (fun c => decide (n ≤ c.1))

/-- The canonical form above a bound: indices rising, from `lo`, all below `CAP`. -/
def Buf.wfFrom : Nat → Buf → Bool
  | _, [] => true
  | lo, (j, _) :: rest => decide (lo ≤ j) && decide (j < Config.cap) && Buf.wfFrom (j + 1) rest

/-- The canonical form: indices strictly rising and 0..17 (R60). -/
def Buf.wf (b : Buf) : Bool := Buf.wfFrom 0 b

/-- Bytes 0..n-1 are all written. -/
def Buf.writtenBelow (n : Nat) (b : Buf) : Bool := (List.range n).all fun i => (Buf.read? b i).isSome

/-! ### Channels and address spaces -/

/-- Channel `c`'s state (30_encoding.md R81: `ch` selects the channel's state set). -/
def State.chan (s : State) : Channel → Chan
  | .bus => s.bus
  | .link => s.link

/-- Channel `c`'s state replaced. -/
def State.setChan (s : State) (c : Channel) (k : Chan) : State :=
  match c with
  | .bus => { s with bus := k }
  | .link => { s with link := k }

/-- The byte array of an address space (R60). -/
def State.array (s : State) : Space → Buf
  | .rxbuf c => (s.chan c).rxbuf
  | .frame c => (s.chan c).frame
  | .stg => s.stg
  | .pbuf => s.pbuf
  | .txbuf => s.txbuf

/-- One byte of memory: the byte at an index of an address space, if it is written. -/
def State.byteAt (s : State) (sp : Space) (i : Nat) : Option Byte := Buf.read? (s.array sp) i

/-- The arrays' canonical form holds. -/
def Memory.wf (s : State) : Bool :=
  Buf.wf s.bus.rxbuf && Buf.wf s.bus.frame && Buf.wf s.link.rxbuf && Buf.wf s.link.frame
    && Buf.wf s.stg && Buf.wf s.pbuf && Buf.wf s.txbuf

/-- What a read of an array yields (R61): the written byte, or the free value of this operation's draw (log 4). -/
def Buf.drawn (b : Buf) (draw : Nat) (sp : Space) (i : Nat) : Byte :=
  (Buf.read? b i).getD (Config.freeByte draw sp i)

/-- `BufRead` (R61) on an array of the state. -/
def State.bufRead (s : State) (sp : Space) (i : Nat) : Byte := Buf.drawn (s.array sp) s.draws sp i

/-! ### The end of an operation -/

/-- The state at the end of a performed operation: the result port driven (30_encoding.md R86), the next draw number. -/
def State.drive (s : State) (v : Byte) : State := { s with r := v, draws := s.draws + 1 }

/-- The outcome "done" (R11): the new state with its result. -/
def done (s : State) (v : Byte) : Host.Outcome State Fault Refusal := .next (s.drive v)

/-- The code of a refusal reason (60_exceptions.md R252); the host's own reason has none. -/
def Refusal.code : Refusal → Option Nat
  | .rsvd => some 1
  | .index => some 2
  | .len => some 3
  | .sel => some 4
  | .phase => some 5
  | _ => none  -- the host's

end Sys2Proof.Machine
end

