-- ==== Sys2Proof/Machine/Checksum.lean ====
section
/-! DEFINITION. The two checksum engines of 40_checksum.md: the functions, the frame checks, and the meanings of CRC_STEP
and SUM_STEP. They read no state and write none (R134). -/

namespace Sys2Proof.Machine

open Sys2Proof

/-! ### CRC-8 -/

/-- One of R122's eight rounds: shift left, and take the polynomial off when a 1 leaves bit 7. -/
def crcRound (c : Byte) : Byte := if c.msb then (c <<< 1) ^^^ Config.crcPoly else c <<< 1

/-- `n` rounds. -/
def crcRounds : Nat → Byte → Byte
  | 0, c => c
  | n + 1, c => crcRounds n (crcRound c)

/-- The table `T` (R122), most significant bit first, no final XOR (R121; log 9). -/
def crcTable (i : Byte) : Byte := crcRounds 8 i

/-- One step of the CRC fold (R123). -/
def crcStep (acc data : Byte) : Byte := crcTable (acc ^^^ data)

/-- `crc8_from` (R123). -/
def crc8From (s : Byte) (l : List Byte) : Byte := l.foldl crcStep s

/-- `crc8` (R123). -/
def crc8 (l : List Byte) : Byte := crc8From Config.crcInit l

/-- `crc_check` (R125): valid when the CRC over the whole frame, check byte included, is 0. -/
def crcCheck (f : List Byte) : Bool := crc8 f == 0

/-- `crc_gen` (R125): the check byte to append. -/
def crcGen (p : List Byte) : Byte := crc8 p

/-! ### Seeded sum -/

/-- One step of the sum fold (R127), modulo 256. -/
def sumStep (acc data : Byte) : Byte := acc + data

/-- `sum8_from` (R127). -/
def sum8From (s : Byte) (l : List Byte) : Byte := l.foldl sumStep s

/-- `sum8` (R127). -/
def sum8 (l : List Byte) : Byte := sum8From Config.sumSeed l

/-- `sum_check` (R129): the sum of all bytes but the last equals the last. An empty frame has no last byte (log 7). -/
def sumCheck (f : List Byte) : Bool :=
  match f.getLast? with
  | some check => sum8 f.dropLast == check
  | none => false

/-- `sum_gen` (R129): the check byte to append. -/
def sumGen (p : List Byte) : Byte := sum8 p

/-- The check a channel's frames are held to (00_scope.md R3, 41_frame_parser.md R160). -/
def frameCheck (c : Channel) (f : List Byte) : Bool :=
  match c with
  | .bus => crcCheck f
  | .link => sumCheck f

/-! ### Meanings -/

/-- CRC_STEP (R124). -/
def execCrcStep (acc data : Byte) (s : State) : Host.Outcome State Fault Refusal := done s (crcStep acc data)

/-- SUM_STEP (R128). -/
def execSumStep (acc data : Byte) (s : State) : Host.Outcome State Fault Refusal := done s (sumStep acc data)

end Sys2Proof.Machine
end

