-- ==== Sys2Proof/Machine/Outputs.lean ====
section
/-! DEFINITION. The outputs, functions of the state (10_state.md R36, R37), and the order of the pins inside a turnaround
(42_arbiter.md R206). -/

namespace Sys2Proof.Machine

open Sys2Proof

/-- `DE`, the RS-485 driver enable (R36). -/
def State.de (s : State) : Bool := s.ast == .txBreak || s.ast == .txShift || s.ast == .txDrain

/-- `RX_EN`, the BUS receiver enable (R36). -/
def State.rxEn (s : State) : Bool := !s.de

/-- `BRK`, the transmit line break (R36). -/
def State.brk (s : State) : Bool := s.ast == .txBreak

/-- `TX_VALID`, a byte is offered to the transmitter (R36). -/
def State.txValid (s : State) : Bool := s.ast == .txShift

/-- `TX_DATA`, the byte offered (R36); any value where `TXBUF[TXIDX]` is unwritten (20_memory.md R61). -/
def State.txData (s : State) : Byte := if s.txValid then s.bufRead .txbuf s.txidx.toNat else 0

/-- `rdy[c]`, the frame ready level (R37, 60_exceptions.md R253, R255). -/
def State.rdyOut (s : State) (c : Channel) : Bool := (s.chan c).rdy

/-- The levels of the turnaround pins. -/
structure Pins where
  rxEn : Bool
  de : Bool
  brk : Bool
deriving DecidableEq, Repr

/-- The levels a state gives the pins. -/
def State.pins (s : State) : Pins := { rxEn := s.rxEn, de := s.de, brk := s.brk }

/-- The levels an implementation passes through at the transmission start (R206): receiver disabled, then driver enabled,
then break issued. -/
def turnaroundStart : List Pins :=
  [ ⟨true, false, false⟩, ⟨false, false, false⟩, ⟨false, true, false⟩, ⟨false, true, true⟩ ]

/-- The levels it passes through on TX_IDLE (R206): driver disabled, then receiver enabled. -/
def turnaroundEnd : List Pins :=
  [ ⟨false, true, false⟩, ⟨false, false, false⟩, ⟨true, false, false⟩ ]

end Sys2Proof.Machine
end

