-- ==== Sys2Proof/Machine/Flags.lean ====
section
/-! DEFINITION. The two kinds of flag (10_state.md R39) and the status bytes that show them. The block computes no
condition code (R39, 40_checksum.md R135). -/

namespace Sys2Proof.Machine

open Sys2Proof

/-- `RDY[c]` set, as only a publish does (R29, R39). -/
def Chan.setRdy (k : Chan) : Chan := { k with rdy := true }

/-- `RDY[c]` cleared, as only FRM_RELEASE and RESET do (R29, R39). -/
def Chan.clearRdy (k : Chan) : Chan := { k with rdy := false }

/-- `PEND` set, as only an accepting TX_QUEUE does (R32, R39). -/
def State.setPend (s : State) : State := { s with pend := true }

/-- `PEND` cleared, as only the transmission start and RESET do (R32, R39). -/
def State.clearPend (s : State) : State := { s with pend := false }

/-- The encoding of `PST` (R23). -/
def PState.code : PState → BitVec 2
  | .idle => 0
  | .headerCollecting => 1
  | .payloadCollecting => 2

/-- The encoding of `AST` (R30). -/
def AState.code : AState → BitVec 3
  | .listen => 0
  | .pending => 1
  | .txBreak => 2
  | .txShift => 3
  | .txDrain => 4

/-- FRM_INFO's byte (41_frame_parser.md R167): RDY in bit 7, 00, FLEN in bits 4:0. -/
def Chan.infoByte (k : Chan) : Byte := BitVec.ofBool k.rdy ++ (0 : BitVec 2) ++ k.flen

/-- View 0 (43_control.md R232): TX_VALID, BRK, DE, RX_EN, PEND, AST from bit 7 down. -/
def State.arbiterByte (s : State) : Byte :=
  BitVec.ofBool s.txValid ++ BitVec.ofBool s.brk ++ BitVec.ofBool s.de ++ BitVec.ofBool s.rxEn
    ++ BitVec.ofBool s.pend ++ s.ast.code

/-- View 5 (R232): 0, CNT, PST from bit 7 down. -/
def Chan.parserByte (k : Chan) : Byte := (0 : BitVec 1) ++ k.cnt ++ k.pst.code

/-- `zext_8` of a counter (00_scope.md R8). -/
def Count.zext (c : Count) : Byte := c.setWidth 8

end Sys2Proof.Machine
end

