-- ==== Sys2Proof/Machine/Operands.lean ====
section
/-! DEFINITION. The operand forms. Every operand is a byte taken as it stands (30_encoding.md R81); an index, a length and
a selector have the ranges of R84. -/

namespace Sys2Proof.Machine

open Sys2Proof

/-- The index 0..17 that a byte gives, if it is one (R84, 20_memory.md R61). -/
def indexOperand (b : Byte) : Option Nat := if b.toNat < Config.cap then some b.toNat else none

/-- The length 1..18 that a byte gives, if it is one (R84, 42_arbiter.md R192). -/
def lengthOperand (b : Byte) : Option Nat :=
  if 1 ≤ b.toNat ∧ b.toNat ≤ Config.cap then some b.toNat else none

/-- The views of 43_control.md R232. -/
inductive View where
  | arbiter
  | dly
  | txidx
  | txlen
  | plen
  | parser (ch : Channel)
  | expected (ch : Channel)
  | txData
deriving DecidableEq, Repr

/-- The view a channel and selector name; R232 lists no other pair. -/
def selectorOperand (ch : Channel) (sel : Byte) : Option View :=
  match sel.toNat, ch with
  | 0, .bus => some .arbiter
  | 1, .bus => some .dly
  | 2, .bus => some .txidx
  | 3, .bus => some .txlen
  | 4, .bus => some .plen
  | 5, c => some (.parser c)
  | 6, c => some (.expected c)
  | 7, .bus => some .txData
  | _, _ => none

end Sys2Proof.Machine
end

