-- ==== Sys2Proof/Machine/Parser.lean ====
section
/-! DEFINITION. The frame synchronizer and parser of 41_frame_parser.md, one for each channel, and the consumer's
operations on the published frame. -/

namespace Sys2Proof.Machine

open Sys2Proof

/-! ### Parser moves -/

/-- `PST <- Idle; CNT <- 0; EXP <- 0`: every way a frame ends (R153, R161 to R164), and the transmission start (R196). -/
def Chan.rearm (k : Chan) : Chan := { k with pst := .idle, cnt := 0, exp := 0 }

/-- `PST <- HeaderCollecting; CNT <- 0; EXP <- 0`: a frame starts (R152, R164). -/
def Chan.startFrame (k : Chan) : Chan := { k with pst := .headerCollecting, cnt := 0, exp := 0 }

/-- `BufWrite(RXBUF, CNT, b); CNT <- CNT + 1` (R153, R154, R158, R159). -/
def Chan.store (k : Chan) (b : Byte) : Chan :=
  { k with rxbuf := Buf.write k.rxbuf k.cnt.toNat b, cnt := k.cnt + 1 }

/-- `EXP` from the length byte, and PayloadCollecting (R153, R158). -/
def Chan.expect (k : Chan) (len : Nat) : Chan :=
  { k with exp := BitVec.ofNat 5 (len + Config.hdr), pst := .payloadCollecting }

/-- The collected frame `RXBUF[0..EXP-1]` (R160); a byte that is unwritten, as in no reachable state, is drawn. -/
def Chan.collected (k : Chan) (c : Channel) (draw : Nat) : List Byte :=
  (List.range k.exp.toNat).map fun i => Buf.drawn k.rxbuf draw (.rxbuf c) i

/-- `accept` (R161): published when the last frame is released, dropped when it is not; Idle either way. -/
def Chan.accept (k : Chan) : Chan :=
  if k.rdy then k.rearm
  else { k.rearm.setRdy with frame := Buf.copy k.exp.toNat k.rxbuf k.frame, flen := k.exp }

/-- `complete` (R160): the checked frame is accepted (R161) or rejected (R162). -/
def Chan.complete (k : Chan) (c : Channel) (draw : Nat) : Chan :=
  if frameCheck c (k.collected c draw) then k.accept else k.rearm

/-- A LINK header byte (R153): the category, then the length, which aborts from 16 on. -/
def Chan.linkHeader (k : Chan) (b : Byte) : Chan :=
  let k' := k.store b
  if k'.cnt = 2 then
    if 16 ≤ b.toNat then k'.rearm else k'.expect b.toNat
  else k'

/-- A BUS header byte (R158): the address, then the counter and length nibbles. -/
def Chan.busHeader (k : Chan) (b : Byte) : Chan :=
  let k' := k.store b
  if k'.cnt = 2 then k'.expect (b &&& 0x0F).toNat else k'

/-- A header byte of a channel. -/
def Chan.header (k : Chan) (c : Channel) (b : Byte) : Chan :=
  match c with
  | .bus => k.busHeader b
  | .link => k.linkHeader b

/-- A payload or check byte (R154, R159): the byte that makes `CNT = EXP` completes the frame. -/
def Chan.payload (k : Chan) (c : Channel) (draw : Nat) (b : Byte) : Chan :=
  let k' := k.store b
  if k'.cnt = k'.exp then k'.complete c draw else k'

/-- A byte in Idle: LINK starts a frame on `SYNC` (R152), BUS ignores it (R157). -/
def Chan.idleByte (k : Chan) (c : Channel) (b : Byte) : Chan :=
  match c with
  | .bus => k
  | .link => if b = Config.sync then k.startFrame else k

/-- One received byte, by the parser's state; a byte that would be stored at `CNT >= CAP` resets the parser instead
(R163; log 10). -/
def Chan.receive (k : Chan) (c : Channel) (draw : Nat) (b : Byte) : Chan :=
  match k.pst with
  | .idle => k.idleByte c b
  | .headerCollecting => if Config.cap ≤ k.cnt.toNat then k.rearm else k.header c b
  | .payloadCollecting => if Config.cap ≤ k.cnt.toNat then k.rearm else k.payload c draw b

/-- One line break (R164): BUS starts a frame, LINK returns to Idle. -/
def Chan.lineBreak (k : Chan) (c : Channel) : Chan :=
  match c with
  | .bus => k.startFrame
  | .link => k.rearm

/-- A channel's receiver is on: BUS only while the arbiter does not drive the bus (R156), LINK always. -/
def State.listening (s : State) (c : Channel) : Bool :=
  match c with
  | .bus => s.rxEn
  | .link => true

/-! ### Meanings -/

/-- RX_BYTE (R151, R156). -/
def execRxByte (ch : Channel) (data : Byte) (s : State) : Host.Outcome State Fault Refusal :=
  if s.listening ch then done (s.setChan ch ((s.chan ch).receive ch s.draws data)) 0 else done s 0

/-- RX_BREAK (R164, R156). -/
def execRxBreak (ch : Channel) (s : State) : Host.Outcome State Fault Refusal :=
  if s.listening ch then done (s.setChan ch ((s.chan ch).lineBreak ch)) 0 else done s 0

/-- FRM_READ (R166). -/
def execFrmRead (ch : Channel) (idx : Byte) (s : State) : Host.Outcome State Fault Refusal :=
  match indexOperand idx with
  | some i => done s (s.bufRead (.frame ch) i)
  | none => .refused .index

/-- FRM_INFO (R167). -/
def execFrmInfo (ch : Channel) (s : State) : Host.Outcome State Fault Refusal := done s (s.chan ch).infoByte

/-- FRM_RELEASE (R168). -/
def execFrmRelease (ch : Channel) (s : State) : Host.Outcome State Fault Refusal :=
  done (s.setChan ch (s.chan ch).clearRdy) 0

end Sys2Proof.Machine
end

