-- ==== Sys2Proof/Machine/Arbiter.lean ====
section
/-! DEFINITION. The half-duplex RS-485 arbiter of 42_arbiter.md: staging, the pending slot, the response delay, the
transmission start and the handshake with the transport. -/

namespace Sys2Proof.Machine

open Sys2Proof

/-- `PBUF[0..n-1] <- STG[0..n-1]; PLEN <- n; PEND <- 1` (R192). -/
def State.loadPending (s : State) (n : Nat) : State :=
  { s.setPend with pbuf := Buf.copy n s.stg s.pbuf, plen := BitVec.ofNat 5 n }

/-- `AST <- PENDING; DLY <- RESP_DELAY` (R192, R200). -/
def State.enterPending (s : State) : State := { s with ast := .pending, dly := s.cfg.respDelay }

/-- The transmission start with a response pending (R196): the pending slot moves to `TXBUF`, the BUS parser is reset,
the arbiter drives the bus. -/
def State.beginTx (s : State) : State :=
  { s.clearPend with
    txbuf := Buf.copy s.plen.toNat s.pbuf s.txbuf, txlen := s.plen, txidx := 0, plen := 0,
    bus := s.bus.rearm, ast := .txBreak }

/-- `start_tx` (R196). A `PLEN` above 18, as in no reachable state (R38), would index `PBUF` outside 0..17 (R61). -/
def startTx (s : State) : Host.Outcome State Fault Refusal :=
  if s.pend = false then done { s with ast := .listen } 0
  else if s.plen.toNat ≤ Config.cap then done s.beginTx 0
  else .fault .bufIndex

/-- `DLY <- DLY - 1` (R194). -/
def State.countDown (s : State) : State := { s with dly := s.dly - 1 }

/-! ### Meanings -/

/-- STG_WRITE (R191). -/
def execStgWrite (idx data : Byte) (s : State) : Host.Outcome State Fault Refusal :=
  match indexOperand idx with
  | some i => done { s with stg := Buf.write s.stg i data } 0
  | none => .refused .index

/-- TX_QUEUE (R192, R203). -/
def execTxQueue (len : Byte) (s : State) : Host.Outcome State Fault Refusal :=
  match lengthOperand len with
  | none => .refused .len
  | some n =>
    if s.pend then done s 0
    else if s.ast = .listen then done (s.loadPending n).enterPending 1
    else done (s.loadPending n) 1

/-- TICK (R194, R196, R202). -/
def execTick (s : State) : Host.Outcome State Fault Refusal :=
  if s.ast = .pending then
    if s.countDown.dly = 0 then startTx s.countDown else done s.countDown 0
  else done s 0

/-- TX_BREAK_DONE (R198, R201). -/
def execTxBreakDone (s : State) : Host.Outcome State Fault Refusal :=
  if s.ast = .txBreak then done { s with txidx := 0, ast := .txShift } 0 else .refused .phase

/-- TX_BYTE_DONE (R199, R201). -/
def execTxByteDone (s : State) : Host.Outcome State Fault Refusal :=
  if s.ast = .txShift then
    if s.txidx + 1 = s.txlen then done { s with txidx := s.txidx + 1, ast := .txDrain } 0
    else done { s with txidx := s.txidx + 1 } 0
  else .refused .phase

/-- TX_IDLE (R200, R201, R203). -/
def execTxIdle (s : State) : Host.Outcome State Fault Refusal :=
  if s.ast = .txDrain then
    if s.pend then done s.enterPending 0 else done { s with ast := .listen } 0
  else .refused .phase

end Sys2Proof.Machine
end

