-- ==== Sys2Proof/Machine/Control.lean ====
section
/-! DEFINITION. The control operations of 43_control.md: NOP, STAT_READ and its views, RESET. -/

namespace Sys2Proof.Machine

open Sys2Proof

/-- The byte of a view (R232). -/
def State.view (s : State) : View → Byte
  | .arbiter => s.arbiterByte
  | .dly => s.dly
  | .txidx => Count.zext s.txidx
  | .txlen => Count.zext s.txlen
  | .plen => Count.zext s.plen
  | .parser c => (s.chan c).parserByte
  | .expected c => Count.zext (s.chan c).exp
  | .txData => s.txData

/-- A view's reads stay inside 0..17 (20_memory.md R61): `TX_DATA` reads `TXBUF[TXIDX]` while a byte is offered. -/
def State.viewInBounds (s : State) : View → Bool
  | .arbiter => true
  | .dly => true
  | .txidx => true
  | .txlen => true
  | .plen => true
  | .parser _ => true
  | .expected _ => true
  | .txData => !s.txValid || decide (s.txidx.toNat < Config.cap)

/-- Every element of R22 at its reset value (10_state.md R41); the model's own fields stay (log 14). -/
def State.toReset (s : State) : State :=
  { State.reset with r := s.r, draws := s.draws, cmds := s.cmds, cfg := s.cfg }

/-! ### Meanings -/

/-- NOP (R230). -/
def execNop (s : State) : Host.Outcome State Fault Refusal := done s 0

/-- STAT_READ (R231, R232). -/
def execStatRead (ch : Channel) (sel : Byte) (s : State) : Host.Outcome State Fault Refusal :=
  match selectorOperand ch sel with
  | none => .refused .sel
  | some v => if s.viewInBounds v then done s (s.view v) else .fault .bufIndex

/-- RESET (R233). -/
def execReset (s : State) : Host.Outcome State Fault Refusal := done s.toReset 0

end Sys2Proof.Machine
end

