-- ==== Sys2Proof/Machine/Dispatch.lean ====
section
/-! DEFINITION. The meaning of every operation of 30_encoding.md R82, one arm each. -/

namespace Sys2Proof.Machine

open Sys2Proof

def exec (i : Instr) (s : State) : Host.Outcome State Fault Refusal :=
  match i with
  | .nop => Sys2Proof.Machine.execNop s
  | .crcStep acc data => Sys2Proof.Machine.execCrcStep acc data s
  | .sumStep acc data => Sys2Proof.Machine.execSumStep acc data s
  | .rxByte ch data => Sys2Proof.Machine.execRxByte ch data s
  | .rxBreak ch => Sys2Proof.Machine.execRxBreak ch s
  | .frmRead ch idx => Sys2Proof.Machine.execFrmRead ch idx s
  | .frmInfo ch => Sys2Proof.Machine.execFrmInfo ch s
  | .frmRelease ch => Sys2Proof.Machine.execFrmRelease ch s
  | .stgWrite idx data => Sys2Proof.Machine.execStgWrite idx data s
  | .txQueue len => Sys2Proof.Machine.execTxQueue len s
  | .tick => Sys2Proof.Machine.execTick s
  | .txBreakDone => Sys2Proof.Machine.execTxBreakDone s
  | .txByteDone => Sys2Proof.Machine.execTxByteDone s
  | .txIdle => Sys2Proof.Machine.execTxIdle s
  | .statRead ch sel => Sys2Proof.Machine.execStatRead ch sel s
  | .reset => Sys2Proof.Machine.execReset s

end Sys2Proof.Machine
end

