-- ==== Sys2Proof/Machine/Issue.lean ====
section
/-! DEFINITION. How an issued command word reaches the block: the first word of the queue is the next operation performed
(00_scope.md R10, 20_memory.md R69). The block fetches nothing itself (R74). -/

namespace Sys2Proof.Machine

open Sys2Proof

/-- The next command word and the state with it taken from the queue. -/
def State.takeCommand (s : State) : Option (CmdWord × State) :=
  match s.cmds with
  | [] => none
  | w :: rest => some (w, { s with cmds := rest })

/-- The refusal of a reserved word (30_encoding.md R83): one reason for the three checks. -/
def reservedRefusal : Reserved → Refusal
  | .zField => .rsvd
  | .channel => .rsvd
  | .operand => .rsvd

/-- A command word issued as the next one to be performed; the words issued before it follow. -/
def State.issueNext (s : State) (w : CmdWord) : State := { s with cmds := w :: s.cmds }

end Sys2Proof.Machine
end

