-- ==== Sys2Proof/Machine/Step.lean ====
section
/-! DEFINITION. One step: the next issued operation is performed (00_scope.md R10), or refused (R11, R296). -/

namespace Sys2Proof.Machine

open Sys2Proof

/-- One operation. With none issued nothing changes: the block changes state only when it performs one (R10; log 2). -/
def step (s : State) : Host.Outcome State Fault Refusal :=
  match s.takeCommand with
  | none => .next s
  | some (w, s') =>
    match decode w with
    | .error e => .refused (reservedRefusal e)
    | .ok i => exec i s'

/-- `s` with the instruction whose low `nbits` bits are `w` issued as the next command word (log 1). -/
def State.withFetchWord (s : State) (nbits w : Nat) : State := s.issueNext (BitVec.ofNat 24 (w % 2 ^ nbits))

end Sys2Proof.Machine
end

