-- ==== Sys2Proof/Machine/Pseudo.lean ====
section
/-! DEFINITION. The assembler level of 30_encoding.md: the pseudo-instructions (R89) as the operations they expand to, and
the text of an operation (R88). The block sees the operations only. -/

namespace Sys2Proof.Machine

open Sys2Proof

/-! ### Pseudo-instructions (R89) -/

/-- A chain of CRC_STEP: each result is the next accumulator. -/
def crcChain : Byte → List Byte → List Instr
  | _, [] => []
  | acc, b :: rest => .crcStep acc b :: crcChain (crcStep acc b) rest

/-- `crc8 b0, ..., bn-1`. -/
def crc8Ops (l : List Byte) : List Instr := crcChain Config.crcInit l

/-- A chain of SUM_STEP: each result is the next accumulator. -/
def sumChain : Byte → List Byte → List Instr
  | _, [] => []
  | acc, b :: rest => .sumStep acc b :: sumChain (sumStep acc b) rest

/-- `sum8 b0, ..., bn-1`. -/
def sum8Ops (l : List Byte) : List Instr := sumChain Config.sumSeed l

/-- STG_WRITE of a list of bytes from an index on. -/
def stgFrom : Nat → List Byte → List Instr
  | _, [] => []
  | i, b :: rest => .stgWrite (BitVec.ofNat 8 i) b :: stgFrom (i + 1) rest

/-- `stg_frame b0, ..., bn-1`. -/
def stgFrame (l : List Byte) : List Instr := stgFrom 0 l

/-- `rx_frame bus, b0, ..., bn-1`: a break, then the bytes. -/
def rxFrameBus (l : List Byte) : List Instr := .rxBreak .bus :: l.map (Instr.rxByte .bus)

/-- `rx_frame link, b0, ..., bn-1`: the bytes, b0 being the sync byte. -/
def rxFrameLink (l : List Byte) : List Instr := l.map (Instr.rxByte .link)

/-- `ticks n`. -/
def ticks (n : Nat) : List Instr := List.replicate n .tick

/-- `tx_complete n`. -/
def txComplete (n : Nat) : List Instr := .txBreakDone :: (List.replicate n .txByteDone ++ [.txIdle])

/-! ### Text (R88) -/

/-- A hexadecimal digit. -/
def hexDigit (n : BitVec 4) : String :=
  match n.toNat with
  | 0 => "0" | 1 => "1" | 2 => "2" | 3 => "3" | 4 => "4" | 5 => "5" | 6 => "6" | 7 => "7"
  | 8 => "8" | 9 => "9" | 10 => "A" | 11 => "B" | 12 => "C" | 13 => "D" | 14 => "E" | _ => "F"

/-- A byte's two hexadecimal digits. -/
def hexPair (b : Byte) : String := hexDigit (b.extractLsb' 4 4) ++ hexDigit (b.extractLsb' 0 4)

/-- An operand byte, `0x..` (log 16). -/
def byteText (b : Byte) : String := "0x" ++ hexPair b

/-- A channel operand. -/
def channelText : Channel → String
  | .bus => "bus"
  | .link => "link"

/-- A command word, `0xOSAABB`. -/
def wordText (w : CmdWord) : String :=
  "0x" ++ hexPair (w.extractLsb' 16 8) ++ hexPair (aField w) ++ hexPair (bField w)

/-- The line of an operation. -/
def asmText : Instr → String
  | .nop => "nop"
  | .crcStep acc data => "crc_step " ++ byteText acc ++ ", " ++ byteText data
  | .sumStep acc data => "sum_step " ++ byteText acc ++ ", " ++ byteText data
  | .rxByte ch data => "rx_byte " ++ channelText ch ++ ", " ++ byteText data
  | .rxBreak ch => "rx_break " ++ channelText ch
  | .frmRead ch idx => "frm_read " ++ channelText ch ++ ", " ++ byteText idx
  | .frmInfo ch => "frm_info " ++ channelText ch
  | .frmRelease ch => "frm_release " ++ channelText ch
  | .stgWrite idx data => "stg_write " ++ byteText idx ++ ", " ++ byteText data
  | .txQueue len => "tx_queue " ++ byteText len
  | .tick => "tick"
  | .txBreakDone => "tx_break_done"
  | .txByteDone => "tx_byte_done"
  | .txIdle => "tx_idle"
  | .statRead ch sel => "stat_read " ++ channelText ch ++ ", " ++ byteText sel
  | .reset => "reset"

end Sys2Proof.Machine
end

