-- ==== Sys2Proof/Machine/Wire.lean ====
section
/-! DEFINITION. The wire encoding of 30_encoding.md Part B: the two frame formats, their length fields, and the frame
shapes and constants the source gives. The block interprets no field but the length (R96, R97). -/

namespace Sys2Proof.Machine

open Sys2Proof

/-! ### Formats -/

/-- `EXP` that a BUS counter and length byte declares (R92). -/
def busExpected (lengthByte : Byte) : Nat := (lengthByte &&& 0x0F).toNat + Config.hdr

/-- `EXP` that a LINK length byte declares; 16 and more are illegal (R94, R98). -/
def linkExpected (lengthByte : Byte) : Option Nat :=
  if lengthByte.toNat ≤ Config.maxLen then some (lengthByte.toNat + Config.hdr) else none

/-- A well-formed BUS frame as collected (R91, 41_frame_parser.md R169): its declared length and a valid check byte. -/
def busWellFormed (f : List Byte) : Bool :=
  match f with
  | _ :: l :: _ => decide (f.length = busExpected l) && crcCheck f
  | _ => false

/-- A well-formed LINK frame as collected, without its sync byte (R93, 41_frame_parser.md R170). -/
def linkWellFormed (f : List Byte) : Bool :=
  match f with
  | _ :: l :: _ => decide (linkExpected l = some f.length) && sumCheck f
  | _ => false

/-- The BUS frame of an address, a counter nibble and a payload of at most 15 bytes (R91). -/
def busFrame (address : Byte) (counter : BitVec 4) (payload : List Byte) : List Byte :=
  let p := address :: (counter ++ BitVec.ofNat 4 payload.length) :: payload
  p ++ [crcGen p]

/-- The collected LINK frame of a category and a payload of at most 15 bytes (R93). -/
def linkFrame (category : Byte) (payload : List Byte) : List Byte :=
  let p := category :: BitVec.ofNat 8 payload.length :: payload
  p ++ [sumGen p]

/-- The wire bytes of a collected LINK frame: the sync byte starts it (R93). -/
def linkWire (f : List Byte) : List Byte := Config.sync :: f

/-! ### Addresses and device constants (R97) -/

/-- The broadcast address. -/
def addrBroadcast : Byte := 0x00

/-- The master's address. -/
def addrMaster : Byte := 0x80

/-- The slave's address (UAP1). -/
def addrSlave : Byte := 0x28

/-- The device-type constant. -/
def deviceType : Byte := 0x14

/-- The scan command, payload of a scan request. -/
def scanCommand : Byte := 0x01

/-! ### Frame shapes (R96) -/

/-- DirectLink and GatewayLink action command: category 0x01, the action code. -/
def actionCommand (code : Byte) : List Byte := linkWire (linkFrame 0x01 [code])

/-- GatewayLink status: category 0x00, status low then high (90_conflicts.md C1). -/
def gatewayStatus (lo hi : Byte) : List Byte := linkWire (linkFrame 0x00 [lo, hi])

/-- DirectLink status report; its category and payload are not in the source, so they are arguments (log 18). -/
def linkStatusReport (category : Byte) (payload : List Byte) : List Byte := linkWire (linkFrame category payload)

/-- Bus broadcast status, low byte first (20_memory.md R63). -/
def broadcastStatus (counter : BitVec 4) (lo hi : Byte) : List Byte := busFrame addrBroadcast counter [lo, hi]

/-- Bus scan request to the slave with counter nibble `n`. -/
def scanRequest (n : BitVec 4) : List Byte := busFrame addrSlave n [scanCommand]

/-- Bus scan response to a request with counter nibble `n`: nibble n + 1 modulo 16 (90_conflicts.md C9). -/
def scanResponse (n : BitVec 4) : List Byte := busFrame addrMaster (n + 1) [deviceType, addrSlave]

/-- Bus status-request response to a request with counter nibble `n`, low byte first (R63, R96). -/
def statusResponse (n : BitVec 4) (lo hi : Byte) : List Byte := busFrame addrMaster (n + 1) [lo, hi]

end Sys2Proof.Machine
end

