-- ==== Sys2Proof/Safety.lean ====
section
/-! DEFINITION. What claims are stated in: the invariants of 10_state.md R38, sequences of operations, the agents and
their duties. -/

namespace Sys2Proof.Machine

open Sys2Proof

/-! ### Invariants -/

/-- R38 items 1 to 4 for one channel, with what makes them inductive: the collected and the published bytes are written,
and `FLEN` is 0 or 3..18 (R28). -/
abbrev Chan.Inv (k : Chan) : Prop :=
  (k.pst = .idle → k.cnt = 0 ∧ k.exp = 0) ∧
  (k.pst = .headerCollecting → k.cnt.toNat ≤ 1 ∧ k.exp = 0) ∧
  (k.pst = .payloadCollecting →
    3 ≤ k.exp.toNat ∧ k.exp.toNat ≤ 18 ∧ 2 ≤ k.cnt.toNat ∧ k.cnt.toNat < k.exp.toNat) ∧
  Buf.writtenBelow k.cnt.toNat k.rxbuf = true ∧
  (k.flen = 0 ∨ 3 ≤ k.flen.toNat ∧ k.flen.toNat ≤ 18) ∧
  (k.rdy = true → k.flen ≠ 0) ∧
  Buf.writtenBelow k.flen.toNat k.frame = true

/-- R38 items 5 to 9, and the legal values of R22 (`DLY`, `TXLEN`, `TXIDX`). -/
abbrev State.ArbiterInv (s : State) : Prop :=
  (s.ast = .listen → s.pend = false) ∧
  (s.ast = .pending → s.pend = true ∧ 1 ≤ s.dly.toNat) ∧
  s.dly.toNat ≤ s.cfg.respDelay.toNat ∧
  (s.pend = true → 1 ≤ s.plen.toNat ∧ s.plen.toNat ≤ 18) ∧
  (s.pend = false → s.plen = 0) ∧
  (s.de = true → 1 ≤ s.txlen.toNat ∧ s.bus.pst = .idle) ∧
  (s.ast = .txShift → s.txidx.toNat < s.txlen.toNat) ∧
  (s.ast = .txDrain → s.txidx = s.txlen) ∧
  s.txlen.toNat ≤ 18 ∧ s.txidx.toNat ≤ 18

/-- The invariant of every reachable state: R38, a legal `RESP_DELAY` (42_arbiter.md R195), and the arrays' canonical
form. -/
abbrev State.Inv (s : State) : Prop :=
  s.bus.Inv ∧ s.link.Inv ∧ s.ArbiterInv ∧ s.cfg.Legal ∧ Memory.wf s = true

/-! ### Sequences of operations -/

/-- The operations performed one after the other (00_scope.md R10), up to the first that stops. -/
def runOps : List Instr → State → Host.Outcome State Fault Refusal
  | [], s => .next s
  | i :: rest, s =>
    match exec i s with
    | .next t => runOps rest t
    | .fault f => .fault f
    | .refused r => .refused r

/-- The bytes the transmitter takes during a sequence of operations: `TX_DATA` at each TX_BYTE_DONE (42_arbiter.md R199). -/
def takenBytes : List Instr → State → List Byte
  | [], _ => []
  | i :: rest, s =>
    match exec i s with
    | .next t => if i = .txByteDone then s.txData :: takenBytes rest t else takenBytes rest t
    | .fault _ => []
    | .refused _ => []

/-! ### Agents (60_exceptions.md R262) -/

/-- The five agents. -/
inductive Agent where
  | busTransport
  | linkTransport
  | tickSource
  | consumer
  | resetSource
deriving DecidableEq, Repr

/-- The transport of a channel. -/
def transportOf : Channel → Agent
  | .bus => .busTransport
  | .link => .linkTransport

/-- The one agent that issues each operation, as R262's table has it. -/
def issuer : Instr → Agent
  | .nop => .consumer
  | .crcStep _ _ => .consumer
  | .sumStep _ _ => .consumer
  | .rxByte ch _ => transportOf ch
  | .rxBreak ch => transportOf ch
  | .frmRead _ _ => .consumer
  | .frmInfo _ => .consumer
  | .frmRelease _ => .consumer
  | .stgWrite _ _ => .consumer
  | .txQueue _ => .consumer
  | .tick => .tickSource
  | .txBreakDone => .busTransport
  | .txByteDone => .busTransport
  | .txIdle => .busTransport
  | .statRead _ _ => .consumer
  | .reset => .resetSource

/-- Who may issue an operation by R82's "issued by" column: its agent of R262, and for NOP any agent (log 12). A premise on
the agents' programs: the block performs any operation from anyone (R263). -/
def mayIssue (a : Agent) (i : Instr) : Bool := i == .nop || a == issuer i

/-- The channel an operation is on: its `ch` operand (30_encoding.md R82), and BUS for the arbiter's operations
(10_state.md R22, R268). The engines' operations, NOP and RESET are on neither. -/
def operatedChannel : Instr → Option Channel
  | .nop => none
  | .crcStep _ _ => none
  | .sumStep _ _ => none
  | .rxByte ch _ => some ch
  | .rxBreak ch => some ch
  | .frmRead ch _ => some ch
  | .frmInfo ch => some ch
  | .frmRelease ch => some ch
  | .stgWrite _ _ => some .bus
  | .txQueue _ => some .bus
  | .tick => some .bus
  | .txBreakDone => some .bus
  | .txByteDone => some .bus
  | .txIdle => some .bus
  | .statRead ch _ => some ch
  | .reset => none

/-- What the agents' programs owe before an operation, a premise and no check of the block (log 19): frames are read while
ready (70_reset_and_hazards.md R290), responses are staged before they are queued (R282), transport events come in their
phase (R295). -/
def withinContract (i : Instr) (s : State) : Bool :=
  match i with
  | .nop => true
  | .crcStep _ _ => true
  | .sumStep _ _ => true
  | .rxByte _ _ => true
  | .rxBreak _ => true
  | .frmRead ch idx => (s.chan ch).rdy && decide (idx.toNat < (s.chan ch).flen.toNat)
  | .frmInfo _ => true
  | .frmRelease _ => true
  | .stgWrite _ _ => true
  | .txQueue len => Buf.writtenBelow len.toNat s.stg
  | .tick => true
  | .txBreakDone => s.ast == .txBreak
  | .txByteDone => s.ast == .txShift
  | .txIdle => s.ast == .txDrain
  | .statRead _ _ => true
  | .reset => true

end Sys2Proof.Machine
end

