-- ==== Sys2Proof/Certificates/Slice0/Obligations.lean ====
section
/-! DEFINITION. The statements for the provers. Each names the rule it formalises; a clause that is the model's own choice
says so and names its log entry. In a next state `r` is the result the operation drives (30_encoding.md R86, log 3) and
`draws` the number of its draws, which every operation advances (log 4); a statement of basis 'stated' leaves the latter
open. -/

open Sys2Proof Sys2Proof.Machine

/-! ### Encoding (30_encoding.md) -/

/-- R80, R82, R87: a word decodes to an operation exactly when it is that operation's word. -/
def Obligations.DecodeIsTheInverseOfEncode : Prop :=
  ∀ (w : CmdWord) (i : Instr), decode w = .ok i ↔ encode i = w

/-- R82's match and mask table, R87: a word decodes exactly when a row selects it, and then the row of its operation. -/
def Obligations.WordDecodesIffARowSelectsIt : Prop :=
  (∀ w : CmdWord, (∃ i, decode w = .ok i) ↔ ∃ row ∈ opcodeRows, row.selects w = true) ∧
  (∀ (w : CmdWord) (i : Instr), decode w = .ok i → ∀ row ∈ opcodeRows, row.selects w = true ↔ row = rowOf i)

/-- R83: a reserved word, and no other, is refused with `REF_RSVD`, whatever its operands and the state (R257). -/
def Obligations.ReservedWordsAreRefused : Prop :=
  ∀ (s : State) (w : CmdWord) (rest : List CmdWord), s.cmds = w :: rest →
    (step s = .refused .rsvd ↔
      zField w ≠ 0
      ∨ (chField w = 1 ∧ (opField w).toNat ∉ [0x3, 0x4, 0x5, 0x6, 0x7, 0xE])
      ∨ (aField w ≠ 0 ∧ (opField w).toNat ∉ [0x1, 0x2, 0x8])
      ∨ (bField w ≠ 0 ∧ (opField w).toNat ∉ [0x1, 0x2, 0x3, 0x5, 0x8, 0x9, 0xE]))

/-- R84: which operand each operation is refused for, with which reason, and that no operation is refused for another. -/
def Obligations.RefusalsOfPerformedOperations : Prop :=
  ∀ (i : Instr) (s : State) (why : Refusal), exec i s = .refused why ↔
    (why = .index ∧ ((∃ c idx, i = .frmRead c idx ∧ 17 < idx.toNat) ∨ ∃ idx b, i = .stgWrite idx b ∧ 17 < idx.toNat))
    ∨ (why = .len ∧ ∃ len, i = .txQueue len ∧ (len.toNat < 1 ∨ 18 < len.toNat))
    ∨ (why = .sel ∧ ((∃ sel, i = .statRead .bus sel ∧ 7 < sel.toNat)
        ∨ ∃ sel, i = .statRead .link sel ∧ sel.toNat ≠ 5 ∧ sel.toNat ≠ 6))
    ∨ (why = .phase ∧ ((i = .txBreakDone ∧ s.ast ≠ .txBreak) ∨ (i = .txByteDone ∧ s.ast ≠ .txShift)
        ∨ (i = .txIdle ∧ s.ast ≠ .txDrain)))

/-- Words written out from R82 and R88 decode to the operations they stand for: one or more of each family. -/
def Obligations.DecoderReadsTheSpecsWords : Prop :=
  decode 0x10F328 = .ok (.crcStep 0xF3 0x28) ∧ decode 0x205501 = .ok (.sumStep 0x55 0x01) ∧
  decode 0x380055 = .ok (.rxByte .link 0x55) ∧ decode 0x400000 = .ok (.rxBreak .bus) ∧
  decode 0x580002 = .ok (.frmRead .link 2) ∧ decode 0x8004A7 = .ok (.stgWrite 4 0xA7) ∧
  decode 0x900005 = .ok (.txQueue 5) ∧ decode 0xA00000 = .ok .tick ∧
  decode 0xE00005 = .ok (.statRead .bus 5) ∧ decode 0xF00000 = .ok .reset ∧
  decode 0x010000 = .error .zField ∧ decode 0x180000 = .error .channel ∧ decode 0x000001 = .error .operand

/-! ### Steps and sequences -/

/-- R10, R87: a step takes the next issued word and performs exactly the operation it decodes to. -/
def Obligations.StepPerformsTheIssuedWord : Prop :=
  ∀ (s : State) (w : CmdWord) (rest : List CmdWord) (i : Instr), s.cmds = w :: rest → decode w = .ok i →
    step s = exec i { s with cmds := rest }

/-- With no operation issued a step changes nothing (the model's reading of R10, log 2). -/
def Obligations.StepWithNothingIssuedChangesNothing : Prop :=
  ∀ s : State, s.cmds = [] → step s = .next s

/-- R69: issued operations are performed in one order, each seeing those before it: as many steps as words are the
sequence of their operations, and the words after them still wait. -/
def Obligations.StepsPerformTheIssuedSequence : Prop :=
  ∀ (is : List Instr) (rest : List CmdWord) (s : State),
    Host.Core.run Sys2Proof.core is.length { s with cmds := is.map encode ++ rest } = runOps is { s with cmds := rest }

/-! ### Checksums (40_checksum.md) -/

/-- R124: CRC_STEP's result, and no state written. -/
def Obligations.CrcStepDrivesTheTableEntry : Prop :=
  ∀ (acc data : Byte) (s : State),
    exec (.crcStep acc data) s = .next { s with r := crcTable (acc ^^^ data), draws := s.draws + 1 }

/-- R128: SUM_STEP's result modulo 256, the carry discarded, and no state written. -/
def Obligations.SumStepDrivesTheSum : Prop :=
  ∀ (acc data : Byte) (s : State), ∃ v : Byte, v.toNat = (acc.toNat + data.toNat) % 256 ∧
    exec (.sumStep acc data) s = .next { s with r := v, draws := s.draws + 1 }

/-- R89, R123: the operations of the pseudo `crc8` end with the CRC-8 of their bytes on the result port. -/
def Obligations.CrcChainComputesCrc8 : Prop :=
  ∀ (b : Byte) (l : List Byte) (s : State),
    runOps (crc8Ops (b :: l)) s = .next { s with r := crc8 (b :: l), draws := s.draws + (l.length + 1) }

/-- R89, R127: the operations of the pseudo `sum8` end with the seeded sum of their bytes on the result port. -/
def Obligations.SumChainComputesSum8 : Prop :=
  ∀ (b : Byte) (l : List Byte) (s : State),
    runOps (sum8Ops (b :: l)) s = .next { s with r := sum8 (b :: l), draws := s.draws + (l.length + 1) }

/-- R130: `T` is a bijection with `T[0] = 0`, a frame built with `crc_gen` passes `crc_check`, and a frame is valid exactly
when its last byte is the CRC-8 of the bytes before it. -/
def Obligations.CrcSelfCheck : Prop :=
  Function.Bijective crcTable ∧ crcTable 0 = 0 ∧
  (∀ p : List Byte, crcCheck (p ++ [crcGen p]) = true) ∧
  (∀ (p : List Byte) (x : Byte), crcCheck (p ++ [x]) = true ↔ x = crc8 p)

/-- R131: the table is linear, `crc8_from` is affine, and every single-bit error in a valid frame is detected. -/
def Obligations.CrcDetectsEverySingleBitError : Prop :=
  (∀ u v : Byte, crcTable (u ^^^ v) = crcTable u ^^^ crcTable v) ∧
  (∀ (s : Byte) (a b : List Byte), a.length = b.length →
    crc8From s (List.zipWith (fun x y => x ^^^ y) a b) = crc8From s a ^^^ crc8From 0 b) ∧
  (∀ (f : List Byte) (i k : Nat) (h : i < f.length), k < 8 → crcCheck f = true →
    crcCheck (f.set i (f[i] ^^^ BitVec.twoPow 8 k)) = false)

/-- R127, R132: the seeded sum is the integer sum of the bytes and the seed, modulo 256, and the LINK check byte is the
plain sum of every wire byte before it, the sync byte included. -/
def Obligations.SumIsTheIntegerSumModulo256 : Prop :=
  (∀ (s : Byte) (l : List Byte), (sum8From s l).toNat = (s.toNat + (l.map BitVec.toNat).sum) % 256) ∧
  (∀ l : List Byte, sum8 l = sum8From 0x55 l) ∧ sum8 [] = 0x55 ∧
  (∀ p : List Byte, sumGen p = sum8From 0 (0x55 :: p) ∧ (sumGen p).toNat = (0x55 + (p.map BitVec.toNat).sum) % 256)

/-- R129: a LINK frame is valid exactly when its last byte is the seeded sum of the bytes before it. -/
def Obligations.SumCheckIsTheLastByte : Prop :=
  (∀ (p : List Byte) (x : Byte), sumCheck (p ++ [x]) = true ↔ sum8 p = x) ∧ ∀ p : List Byte, sumGen p = sum8 p

/-- R133: every single-bit error of one byte of a valid frame, the checksum byte included, makes `sum_check` fail. -/
def Obligations.SumDetectsEverySingleBitError : Prop :=
  ∀ (f : List Byte) (i k : Nat) (h : i < f.length), k < 8 → sumCheck f = true →
    sumCheck (f.set i (f[i] ^^^ BitVec.twoPow 8 k)) = false

/-! ### Frame parser (41_frame_parser.md) -/

/-- R151, R250: RX_BYTE is performed for every byte in every state, drives 0, and touches only its channel's parser and
published frame. -/
def Obligations.RxByteAlwaysCompletes : Prop :=
  ∀ (c : Channel) (b : Byte) (s : State), ∃ k : Chan,
    exec (.rxByte c b) s = .next { s.setChan c k with r := 0, draws := s.draws + 1 }

/-- R152: in LINK Idle only the sync byte does anything: it starts a frame and is not collected. -/
def Obligations.LinkIdleWaitsForSync : Prop :=
  ∀ (b : Byte) (s : State), s.link.pst = .idle →
    (b = 0x55 → ∃ d, exec (.rxByte .link b) s = .next { s with
      link := { s.link with pst := .headerCollecting, cnt := 0, exp := 0 }, r := 0, draws := d }) ∧
    (b ≠ 0x55 → ∃ d, exec (.rxByte .link b) s = .next { s with r := 0, draws := d })

/-- R153: a LINK header byte is stored at `CNT`; the second is the length, which aborts from 16 on and else gives `EXP`. -/
def Obligations.LinkHeaderByte : Prop :=
  ∀ (b : Byte) (s : State), s.link.pst = .headerCollecting → s.link.cnt.toNat < 18 → ∃ (k : Chan) (d : Nat),
    exec (.rxByte .link b) s = .next { s with link := k, r := 0, draws := d } ∧
    k.frame = s.link.frame ∧ k.flen = s.link.flen ∧ k.rdy = s.link.rdy ∧
    (∀ i, Buf.read? k.rxbuf i = if i = s.link.cnt.toNat then some b else Buf.read? s.link.rxbuf i) ∧
    (s.link.cnt.toNat + 1 ≠ 2 →
      k.pst = .headerCollecting ∧ k.cnt.toNat = s.link.cnt.toNat + 1 ∧ k.exp = s.link.exp) ∧
    (s.link.cnt.toNat + 1 = 2 → 16 ≤ b.toNat → k.pst = .idle ∧ k.cnt = 0 ∧ k.exp = 0) ∧
    (s.link.cnt.toNat + 1 = 2 → b.toNat < 16 →
      k.pst = .payloadCollecting ∧ k.cnt = 2 ∧ k.exp.toNat = b.toNat + 3)

/-- R158: a BUS header byte is stored at `CNT`; the second gives `EXP` from its low nibble, and its high nibble is stored
and not looked at. -/
def Obligations.BusHeaderByte : Prop :=
  ∀ (b : Byte) (s : State), s.rxEn = true → s.bus.pst = .headerCollecting → s.bus.cnt.toNat < 18 → ∃ (k : Chan) (d : Nat),
    exec (.rxByte .bus b) s = .next { s with bus := k, r := 0, draws := d } ∧
    k.frame = s.bus.frame ∧ k.flen = s.bus.flen ∧ k.rdy = s.bus.rdy ∧
    (∀ i, Buf.read? k.rxbuf i = if i = s.bus.cnt.toNat then some b else Buf.read? s.bus.rxbuf i) ∧
    (s.bus.cnt.toNat + 1 ≠ 2 → k.pst = .headerCollecting ∧ k.cnt.toNat = s.bus.cnt.toNat + 1 ∧ k.exp = s.bus.exp) ∧
    (s.bus.cnt.toNat + 1 = 2 → k.pst = .payloadCollecting ∧ k.cnt = 2 ∧ k.exp.toNat = b.toNat % 16 + 3)

/-- R154, R159: a payload byte that does not complete the frame is stored at `CNT`, and nothing else changes. -/
def Obligations.PayloadByteIsCollected : Prop :=
  ∀ (c : Channel) (b : Byte) (s : State), s.listening c = true → (s.chan c).pst = .payloadCollecting →
    (s.chan c).cnt.toNat < 18 → (s.chan c).cnt.toNat + 1 ≠ (s.chan c).exp.toNat → ∃ k : Chan,
    exec (.rxByte c b) s = .next { s.setChan c k with r := 0, draws := s.draws + 1 } ∧
    k.pst = .payloadCollecting ∧ k.cnt.toNat = (s.chan c).cnt.toNat + 1 ∧ k.exp = (s.chan c).exp ∧
    k.frame = (s.chan c).frame ∧ k.flen = (s.chan c).flen ∧ k.rdy = (s.chan c).rdy ∧
    ∀ i, Buf.read? k.rxbuf i = if i = (s.chan c).cnt.toNat then some b else Buf.read? (s.chan c).rxbuf i

/-- R160, R161, R162: the byte that completes a frame has it checked; a valid frame is published when the last one is
released and dropped when not, an invalid one is dropped, and the parser is in Idle either way. -/
def Obligations.CompletedFrameIsCheckedAndPublished : Prop :=
  ∀ (c : Channel) (b : Byte) (f : List Byte) (s : State), s.listening c = true →
    (s.chan c).pst = .payloadCollecting → (s.chan c).cnt.toNat < 18 →
    f.length = (s.chan c).cnt.toNat → (∀ i < f.length, s.byteAt (.rxbuf c) i = f[i]?) →
    (s.chan c).cnt.toNat + 1 = (s.chan c).exp.toNat → ∃ k : Chan,
    exec (.rxByte c b) s = .next { s.setChan c k with r := 0, draws := s.draws + 1 } ∧
    k.pst = .idle ∧ k.cnt = 0 ∧ k.exp = 0 ∧
    (∀ i, Buf.read? k.rxbuf i = if i = (s.chan c).cnt.toNat then some b else Buf.read? (s.chan c).rxbuf i) ∧
    (frameCheck c (f ++ [b]) = true → (s.chan c).rdy = false →
      k.rdy = true ∧ k.flen = (s.chan c).exp ∧
      (∀ i ≤ f.length, Buf.read? k.frame i = (f ++ [b])[i]?) ∧
      ∀ i > f.length, Buf.read? k.frame i = Buf.read? (s.chan c).frame i) ∧
    (frameCheck c (f ++ [b]) = false ∨ (s.chan c).rdy = true →
      k.rdy = (s.chan c).rdy ∧ k.flen = (s.chan c).flen ∧ k.frame = (s.chan c).frame)

/-- R156: while the arbiter drives the bus, RX_BYTE and RX_BREAK on BUS change nothing. -/
def Obligations.BusReceiverIsOffWhileTransmitting : Prop :=
  ∀ s : State, (s.ast = .txBreak ∨ s.ast = .txShift ∨ s.ast = .txDrain) →
    (∀ b, ∃ d, exec (.rxByte .bus b) s = .next { s with r := 0, draws := d }) ∧
    ∃ d, exec (.rxBreak .bus) s = .next { s with r := 0, draws := d }

/-- R157: in BUS Idle a data byte changes nothing. -/
def Obligations.BusIdleIgnoresBytes : Prop :=
  ∀ (b : Byte) (s : State), s.rxEn = true → s.bus.pst = .idle →
    ∃ d, exec (.rxByte .bus b) s = .next { s with r := 0, draws := d }

/-- R163: a byte that would be stored at `CNT >= 18` is discarded and resets the parser; under the invariant this guard
never acts. -/
def Obligations.OverflowResetsTheParser : Prop :=
  (∀ (c : Channel) (b : Byte) (s : State), s.listening c = true → (s.chan c).pst ≠ .idle →
    18 ≤ (s.chan c).cnt.toNat → exec (.rxByte c b) s = .next
      { s.setChan c { s.chan c with pst := .idle, cnt := 0, exp := 0 } with r := 0, draws := s.draws + 1 }) ∧
  (∀ (c : Channel) (s : State), s.Inv → (s.chan c).cnt.toNat < 18)

/-- R164: a break restarts BUS collecting from any parser state while its receiver is on, and returns LINK to Idle; two
breaks leave what one leaves. -/
def Obligations.LineBreakRestartsTheParser : Prop :=
  (∀ s : State, s.rxEn = true → exec (.rxBreak .bus) s = .next { s with
    bus := { s.bus with pst := .headerCollecting, cnt := 0, exp := 0 }, r := 0, draws := s.draws + 1 }) ∧
  (∀ s : State, exec (.rxBreak .link) s = .next { s with
    link := { s.link with pst := .idle, cnt := 0, exp := 0 }, r := 0, draws := s.draws + 1 })

/-- R166: FRM_READ of an index 0..17 is performed whatever `RDY` is, gives a written byte's value, and changes nothing. -/
def Obligations.FrmReadGivesThePublishedByte : Prop :=
  ∀ (c : Channel) (idx : Byte) (s : State), idx.toNat ≤ 17 → ∃ v : Byte,
    exec (.frmRead c idx) s = .next { s with r := v, draws := s.draws + 1 } ∧
    ∀ x, s.byteAt (.frame c) idx.toNat = some x → v = x

/-- R167: FRM_INFO gives RDY in bit 7, 00 in bits 6:5 and FLEN in bits 4:0, and changes nothing. -/
def Obligations.FrmInfoGivesReadyAndLength : Prop :=
  ∀ (c : Channel) (s : State), ∃ v : Byte,
    exec (.frmInfo c) s = .next { s with r := v, draws := s.draws + 1 } ∧
    v.getLsbD 7 = (s.chan c).rdy ∧ v.getLsbD 6 = false ∧ v.getLsbD 5 = false ∧
    v.extractLsb' 0 5 = (s.chan c).flen

/-- R168: FRM_RELEASE clears `RDY` and changes nothing else. -/
def Obligations.FrmReleaseClearsReady : Prop :=
  ∀ (c : Channel) (s : State), exec (.frmRelease c) s = .next
    { s.setChan c { s.chan c with rdy := false } with r := 0, draws := s.draws + 1 }

/-- R169: from any BUS parser state, a break and a well-formed frame are accepted: published when the last frame is
released, dropped when not. -/
def Obligations.BusResynchronizes : Prop :=
  ∀ (f : List Byte) (s : State), s.rxEn = true → busWellFormed f = true → ∃ k : Chan,
    runOps (rxFrameBus f) s = .next { s with bus := k, r := 0, draws := s.draws + (f.length + 1) } ∧
    k.pst = .idle ∧ k.cnt = 0 ∧ k.exp = 0 ∧ k.rdy = true ∧
    (s.bus.rdy = false → k.flen.toNat = f.length ∧ ∀ i < f.length, Buf.read? k.frame i = f[i]?) ∧
    (s.bus.rdy = true → k.flen = s.bus.flen ∧ k.frame = s.bus.frame)

/-- R170: from LINK Idle, the wire bytes of a well-formed frame are accepted: published when the last frame is released,
dropped when not. -/
def Obligations.LinkResynchronizesFromIdle : Prop :=
  ∀ (f : List Byte) (s : State), s.link.pst = .idle → linkWellFormed f = true → ∃ k : Chan,
    runOps (rxFrameLink (linkWire f)) s = .next { s with link := k, r := 0, draws := s.draws + (f.length + 1) } ∧
    k.pst = .idle ∧ k.cnt = 0 ∧ k.exp = 0 ∧ k.rdy = true ∧
    (s.link.rdy = false → k.flen.toNat = f.length ∧ ∀ i < f.length, Buf.read? k.frame i = f[i]?) ∧
    (s.link.rdy = true → k.flen = s.link.flen ∧ k.frame = s.link.frame)

/-- R171: a published frame stays, ready and unchanged, until it is released or the block is reset. -/
def Obligations.PublishedFrameStaysUntilReleased : Prop :=
  ∀ (i : Instr) (c : Channel) (s t : State), (s.chan c).rdy = true → exec i s = .next t →
    i ≠ .frmRelease c → i ≠ .reset →
    (t.chan c).rdy = true ∧ (t.chan c).flen = (s.chan c).flen ∧
    ∀ j, t.byteAt (.frame c) j = s.byteAt (.frame c) j

/-- R268: no operation on one channel reads or writes the other's state. READS: what an operation makes of LINK, and a LINK
operation's result, depend on LINK alone (and the draw number, log 4); what it makes of BUS and the arbiter, and the result
of any other operation, do not depend on LINK. WRITES: no operation but RESET and those on LINK writes LINK; an operation on
LINK writes LINK, the result port and the draw number only. -/
def Obligations.ChannelsDoNotInterfere : Prop :=
  (∀ (i : Instr) (s s' t t' : State), s.link = s'.link → s.draws = s'.draws →
    exec i s = .next t → exec i s' = .next t' →
    t.link = t'.link ∧ (operatedChannel i = some .link → t.r = t'.r)) ∧
  (∀ (i : Instr) (k : Chan) (s t t' : State), exec i s = .next t → exec i { s with link := k } = .next t' →
    t' = { t with link := t'.link, r := t'.r } ∧ (operatedChannel i ≠ some .link → t'.r = t.r)) ∧
  (∀ (i : Instr) (s t : State), exec i s = .next t → operatedChannel i ≠ some .link → i ≠ .reset →
    t.link = s.link) ∧
  (∀ (i : Instr) (s t : State), exec i s = .next t → operatedChannel i = some .link →
    t = { s with link := t.link, r := t.r, draws := t.draws })

/-! ### Arbiter (42_arbiter.md) -/

/-- R190: the arbiter's whole transition table, and that nothing else changes `AST`. -/
def Obligations.ArbiterFollowsItsTable : Prop :=
  ∀ (i : Instr) (s t : State), s.Inv → exec i s = .next t →
    (s.ast = .listen → ∀ len, i = .txQueue len → t.ast = .pending ∧ t.dly = s.cfg.respDelay) ∧
    (s.ast = .pending → i = .tick → 0 < s.dly.toNat - 1 → t.ast = .pending ∧ t.dly.toNat = s.dly.toNat - 1) ∧
    (s.ast = .pending → i = .tick → s.dly.toNat - 1 = 0 → t.ast = .txBreak) ∧
    (s.ast = .txBreak → i = .txBreakDone → t.ast = .txShift ∧ t.txidx = 0) ∧
    (s.ast = .txShift → i = .txByteDone → s.txidx.toNat + 1 < s.txlen.toNat →
      t.ast = .txShift ∧ t.txidx.toNat = s.txidx.toNat + 1) ∧
    (s.ast = .txShift → i = .txByteDone → s.txidx.toNat + 1 = s.txlen.toNat → t.ast = .txDrain) ∧
    (s.ast = .txDrain → i = .txIdle → s.pend = false → t.ast = .listen) ∧
    (s.ast = .txDrain → i = .txIdle → s.pend = true → t.ast = .pending ∧ t.dly = s.cfg.respDelay) ∧
    (i = .reset → t.ast = .listen) ∧
    (t.ast ≠ s.ast → i = .reset ∨ (s.ast = .listen ∧ ∃ len, i = .txQueue len) ∨ (s.ast = .pending ∧ i = .tick) ∨
      (s.ast = .txBreak ∧ i = .txBreakDone) ∨ (s.ast = .txShift ∧ i = .txByteDone) ∨ (s.ast = .txDrain ∧ i = .txIdle))

/-- R191: STG_WRITE writes one byte of `STG`, and changes nothing else. -/
def Obligations.StgWriteWritesOneByte : Prop :=
  ∀ (idx b : Byte) (s : State), idx.toNat ≤ 17 → ∃ buf : Buf,
    exec (.stgWrite idx b) s = .next { s with stg := buf, r := 0, draws := s.draws + 1 } ∧
    Buf.read? buf idx.toNat = some b ∧ ∀ i ≠ idx.toNat, Buf.read? buf i = s.byteAt .stg i

/-- R192, R203: an accepted TX_QUEUE copies the staged bytes, written or not, into the pending slot; from LISTEN it starts
the countdown, in every other state `AST` and `DLY` stay. -/
def Obligations.TxQueueFillsTheFreeSlot : Prop :=
  ∀ (len : Byte) (s : State), 1 ≤ len.toNat → len.toNat ≤ 18 → s.pend = false → ∃ (buf : Buf) (n : Count),
    n.toNat = len.toNat ∧
    (∀ i < len.toNat, Buf.read? buf i = s.byteAt .stg i) ∧ (∀ i ≥ len.toNat, Buf.read? buf i = s.byteAt .pbuf i) ∧
    (s.ast = .listen → exec (.txQueue len) s = .next { s with
      pbuf := buf, plen := n, pend := true, ast := .pending, dly := s.cfg.respDelay, r := 1, draws := s.draws + 1 }) ∧
    (s.ast ≠ .listen → exec (.txQueue len) s = .next { s with
      pbuf := buf, plen := n, pend := true, r := 1, draws := s.draws + 1 })

/-- R192: a TX_QUEUE while a response is pending is not accepted: it drives 0 and changes nothing. -/
def Obligations.TxQueueKeepsThePendingResponse : Prop :=
  ∀ (len : Byte) (s : State), 1 ≤ len.toNat → len.toNat ≤ 18 → s.pend = true →
    exec (.txQueue len) s = .next { s with r := 0, draws := s.draws + 1 }

/-- R202: TICK outside PENDING has no effect on any state. -/
def Obligations.TickOutsidePendingHasNoEffect : Prop :=
  ∀ s : State, s.ast ≠ .pending → ∃ d, exec .tick s = .next { s with r := 0, draws := d }

/-- R194: in PENDING a TICK decrements `DLY` by exactly one, and while that is not zero changes nothing else. -/
def Obligations.TickCountsDown : Prop :=
  ∀ s : State, s.ast = .pending → 2 ≤ s.dly.toNat → ∃ d : BitVec 8, d.toNat = s.dly.toNat - 1 ∧
    exec .tick s = .next { s with dly := d, r := 0, draws := s.draws + 1 }

/-- R194, R196: the TICK that makes `DLY` zero starts the transmission: the pending slot moves to `TXBUF`, the BUS parser
is reset whatever it was collecting, and the arbiter is in TX_BREAK. -/
def Obligations.TickStartsTheTransmission : Prop :=
  ∀ s : State, s.ast = .pending → s.dly = 1 →
    (s.pend = true → s.plen.toNat ≤ 18 → ∃ (buf : Buf) (d : Nat),
      (∀ i < s.plen.toNat, Buf.read? buf i = s.byteAt .pbuf i) ∧
      (∀ i ≥ s.plen.toNat, Buf.read? buf i = s.byteAt .txbuf i) ∧
      exec .tick s = .next { s with
        dly := 0, txbuf := buf, txlen := s.plen, txidx := 0, pend := false, plen := 0,
        bus := { s.bus with pst := .idle, cnt := 0, exp := 0 }, ast := .txBreak, r := 0, draws := d }) ∧
    (s.pend = false → ∃ d, exec .tick s = .next { s with dly := 0, ast := .listen, r := 0, draws := d })

/-- R198: TX_BREAK_DONE in TX_BREAK offers the first byte. -/
def Obligations.TxBreakDoneOffersTheFirstByte : Prop :=
  ∀ s : State, s.ast = .txBreak → ∃ t : State,
    exec .txBreakDone s = .next t ∧ t = { s with txidx := 0, ast := .txShift, r := 0, draws := s.draws + 1 } ∧
    t.brk = false ∧ t.txValid = true ∧ ∀ v, s.byteAt .txbuf 0 = some v → t.txData = v

/-- R199: TX_BYTE_DONE in TX_SHIFT offers the next byte, or after the last one offers none and waits for the line. -/
def Obligations.TxByteDoneOffersTheNextByte : Prop :=
  ∀ s : State, s.ast = .txShift → s.txidx.toNat < s.txlen.toNat → ∃ t : State, exec .txByteDone s = .next t ∧
    t.txidx.toNat = s.txidx.toNat + 1 ∧ t = { s with txidx := t.txidx, ast := t.ast, r := 0, draws := s.draws + 1 } ∧
    (s.txidx.toNat + 1 = s.txlen.toNat → t.ast = .txDrain ∧ t.txValid = false ∧ t.txData = 0) ∧
    (s.txidx.toNat + 1 ≠ s.txlen.toNat → t.ast = .txShift ∧
      ∀ v, s.byteAt .txbuf (s.txidx.toNat + 1) = some v → t.txData = v)

/-- R200, R203: TX_IDLE in TX_DRAIN returns to LISTEN, or to PENDING with a full countdown for a response queued
meanwhile; the driver is off and the receiver on. -/
def Obligations.TxIdleEndsTheTurnaround : Prop :=
  ∀ s : State, s.ast = .txDrain → ∃ t : State, exec .txIdle s = .next t ∧ t.de = false ∧ t.rxEn = true ∧
    (s.pend = false → t = { s with ast := .listen, r := 0, draws := s.draws + 1 }) ∧
    (s.pend = true → t = { s with ast := .pending, dly := s.cfg.respDelay, r := 0, draws := s.draws + 1 })

/-- R195: a response accepted in LISTEN starts transmitting in the `RESP_DELAY`-th TICK after its TX_QUEUE, not earlier and
not later, whatever other operations but RESET fall between. -/
def Obligations.ResponseStartsAtTheDelaysLastTick : Prop :=
  ∀ (len : Byte) (ops : List Instr) (s t : State), s.Inv → s.ast = .listen → .reset ∉ ops →
    runOps (.txQueue len :: ops) s = .next t →
    (ops.count .tick < s.cfg.respDelay.toNat →
      t.ast = .pending ∧ t.de = false ∧ t.dly.toNat + ops.count .tick = s.cfg.respDelay.toNat) ∧
    (∀ before, ops = before ++ [.tick] → ops.count .tick = s.cfg.respDelay.toNat →
      t.ast = .txBreak ∧ t.txlen.toNat = len.toNat ∧ ∀ i < len.toNat, t.byteAt .txbuf i = s.byteAt .stg i)

/-- R207: a response queued during a transmission starts at the `RESP_DELAY`-th TICK after the TX_IDLE that ends it. -/
def Obligations.NextTurnaroundWaitsTheFullDelay : Prop :=
  ∀ (ops : List Instr) (s t : State), s.Inv → s.ast = .txDrain → s.pend = true → .reset ∉ ops →
    runOps (.txIdle :: ops) s = .next t →
    (ops.count .tick < s.cfg.respDelay.toNat → t.ast = .pending ∧ t.de = false) ∧
    (∀ before, ops = before ++ [.tick] → ops.count .tick = s.cfg.respDelay.toNat →
      t.ast = .txBreak ∧ t.txlen = s.plen ∧ ∀ i < s.plen.toNat, t.byteAt .txbuf i = s.byteAt .pbuf i)

/-- R198 to R200, R204: the transport takes the frame's bytes once each and in order, and the transmission then ends. -/
def Obligations.QueuedBytesAreTakenInOrder : Prop :=
  ∀ (f : List Byte) (s : State), s.ast = .txBreak → f.length = s.txlen.toNat → 1 ≤ f.length →
    (∀ i < f.length, s.byteAt .txbuf i = f[i]?) →
    takenBytes (txComplete f.length) s = f ∧ ∃ t : State, runOps (txComplete f.length) s = .next t ∧
      t.de = false ∧ t.txidx = s.txlen ∧ t.txlen = s.txlen ∧ t.pend = s.pend

/-- R172: from the transmission start to its end the BUS parser stays in Idle. -/
def Obligations.BusParserIsIdleWhileTransmitting : Prop :=
  ∀ (i : Instr) (s t : State), s.Inv → exec i s = .next t → s.de = true ∨ t.de = true →
    t.bus.pst = .idle ∧ t.bus.cnt = 0 ∧ t.bus.exp = 0

/-- R206: the pins' levels before and after a transmission start and a TX_IDLE are the ends of the stated orders, and no
level on the way has driver and receiver on together. -/
def Obligations.TurnaroundKeepsThePinOrder : Prop :=
  (∀ s t : State, s.ast = .pending → exec .tick s = .next t → t.ast = .txBreak →
    turnaroundStart.head? = some s.pins ∧ turnaroundStart.getLast? = some t.pins) ∧
  (∀ s t : State, exec .txIdle s = .next t →
    turnaroundEnd.head? = some s.pins ∧ turnaroundEnd.getLast? = some t.pins) ∧
  ∀ p ∈ turnaroundStart ++ turnaroundEnd, ¬(p.rxEn = true ∧ p.de = true)

/-! ### Control and flags (43_control.md, 10_state.md) -/

/-- R230: NOP drives 0 and changes no state. -/
def Obligations.NopChangesNothing : Prop :=
  ∀ s : State, exec .nop s = .next { s with r := 0, draws := s.draws + 1 }

/-- R232: every view of STAT_READ and its value, every other pair refused, and the values at reset. -/
def Obligations.StatReadGivesItsViews : Prop :=
  (∀ (s : State) (c : Channel) (sel v : Byte),
    (c = .bus ∧ sel = 0 ∧ v.extractLsb' 0 3 = s.ast.code ∧ v.getLsbD 3 = s.pend ∧ v.getLsbD 4 = s.rxEn ∧
        v.getLsbD 5 = s.de ∧ v.getLsbD 6 = s.brk ∧ v.getLsbD 7 = s.txValid)
      ∨ (c = .bus ∧ sel = 1 ∧ v = s.dly)
      ∨ (c = .bus ∧ sel = 2 ∧ v.toNat = s.txidx.toNat)
      ∨ (c = .bus ∧ sel = 3 ∧ v.toNat = s.txlen.toNat)
      ∨ (c = .bus ∧ sel = 4 ∧ v.toNat = s.plen.toNat)
      ∨ (sel = 5 ∧ v.extractLsb' 0 2 = (s.chan c).pst.code ∧ v.extractLsb' 2 5 = (s.chan c).cnt ∧ v.getLsbD 7 = false)
      ∨ (sel = 6 ∧ v.toNat = (s.chan c).exp.toNat)
      ∨ (c = .bus ∧ sel = 7 ∧ (s.txValid = true → s.txidx.toNat ≤ 17) ∧ v = s.txData) →
    ∃ d, exec (.statRead c sel) s = .next { s with r := v, draws := d }) ∧
  (∀ (s : State) (c : Channel) (sel : Byte), exec (.statRead c sel) s = .refused .sel ↔
    7 < sel.toNat ∨ (c = .link ∧ sel.toNat ≠ 5 ∧ sel.toNat ≠ 6)) ∧
  (∀ (c : Channel) (sel : Byte) (t : State), exec (.statRead c sel) State.reset = .next t →
    t.r = if sel = 0 then 0x10 else 0)

/-- R41, R280: the reset value of every element and output, at power-on and after RESET. -/
def Obligations.ResetValuesOfEveryElement : Prop :=
  ∀ t : State, (t = State.reset ∨ ∃ s, exec .reset s = .next t) →
    (∀ c, (t.chan c).pst = .idle ∧ (t.chan c).cnt = 0 ∧ (t.chan c).exp = 0 ∧ (t.chan c).flen = 0 ∧
      (t.chan c).rdy = false ∧ t.rdyOut c = false) ∧
    t.ast = .listen ∧ t.dly = 0 ∧ t.pend = false ∧ t.plen = 0 ∧ t.txlen = 0 ∧ t.txidx = 0 ∧
    (∀ sp i, t.byteAt sp i = none) ∧
    t.de = false ∧ t.rxEn = true ∧ t.brk = false ∧ t.txValid = false ∧ t.txData = 0

/-- R233: RESET is performed in every state and drives 0; a second one leaves what the first left. The model's own fields
stay (the model's choice, log 14). -/
def Obligations.ResetAlwaysCompletes : Prop :=
  ∀ s : State, exec .reset s = .next
      { State.reset with r := 0, draws := s.draws + 1, cmds := s.cmds, cfg := s.cfg } ∧
    ∀ t u : State, exec .reset s = .next t → exec .reset t = .next u → u = { t with draws := t.draws + 1 }

/-- R39: the flags are set and cleared by the operations the rule lists, and by no other. -/
def Obligations.FlagsAreWrittenOnlyWhereListed : Prop :=
  ∀ (i : Instr) (s t : State), exec i s = .next t →
    (s.pend = false → t.pend = true → ∃ len, i = .txQueue len ∧ t.r = 1) ∧
    (s.pend = true → t.pend = false → i = .reset ∨ (i = .tick ∧ s.ast = .pending ∧ t.ast = .txBreak)) ∧
    ∀ c, ((s.chan c).rdy = false → (t.chan c).rdy = true → ∃ b, i = .rxByte c b) ∧
      ((s.chan c).rdy = true → (t.chan c).rdy = false → i = .frmRelease c ∨ i = .reset)

/-! ### Invariants -/

/-- The invariant (R38, R22) holds at reset. -/
def Obligations.ResetStateIsInvariant : Prop := State.reset.Inv

/-- R38: every step keeps the invariant, from every state that has it. -/
def Obligations.EveryStepKeepsTheInvariant : Prop :=
  ∀ s t : State, s.Inv → step s = .next t → t.Inv

/-- R60, R61: every step keeps the byte arrays inside 0..17 and in their canonical form, from every state that has it. -/
def Obligations.EveryStepKeepsTheArraysForm : Prop :=
  ∀ s t : State, Memory.wf s = true → step s = .next t → Memory.wf t = true

/-- R282: no step changes the parameters, and a step takes at most the first issued word. -/
def Obligations.EveryStepKeepsTheParameters : Prop :=
  ∀ s t : State, step s = .next t → t.cfg = s.cfg ∧ t.cmds = s.cmds.tail

/-- R61, R250: from a state with the invariant no step faults: no internal access falls outside 0..17. -/
def Obligations.NoStepFaults : Prop :=
  ∀ (s : State) (why : Fault), s.Inv → step s ≠ .fault why

/-- R84, R250: in a state with the invariant a well-formed operation is performed, but for a transport event out of its
phase. -/
def Obligations.WellFormedOperationsComplete : Prop :=
  ∀ (i : Instr) (s : State), s.Inv → i.wellFormed = true →
    (i = .txBreakDone → s.ast = .txBreak) → (i = .txByteDone → s.ast = .txShift) → (i = .txIdle → s.ast = .txDrain) →
    ∃ t, exec i s = .next t
end

