-- ==== Sys2Proof/Laws/Buf.lean ====
section
/-! SUPPORT. The laws of the byte arrays (20_memory.md R61, 10_state.md R42): what a read sees after a write and after a
copy, and that every operation keeps the canonical form. -/

namespace Sys2Proof.Machine

open Sys2Proof

@[simp] theorem Buf.read?_nil (i : Nat) : Buf.read? [] i = none := rfl

/-- A read after a write sees the byte written at its index and every other byte as before. -/
theorem Buf.read?_write (b : Buf) (i : Nat) (v : Byte) (k : Nat) :
    Buf.read? (Buf.write b i v) k = if k = i then some v else Buf.read? b k := by
  induction b with
  | nil => rfl
  | cons c rest ih =>
    obtain ⟨j, w⟩ := c
    by_cases hlt : i < j
    · simp [Buf.write, Buf.read?, hlt]
    · by_cases hij : i = j
      · subst hij
        simp only [Buf.write, lt_irrefl, ↓reduceIte, Buf.read?]
        split <;> rfl
      · simp only [Buf.write, hlt, ↓reduceIte, hij, Buf.read?, ih]
        split <;> split <;> first | rfl | omega

@[simp] theorem Buf.read?_write_same (b : Buf) (i : Nat) (v : Byte) : Buf.read? (Buf.write b i v) i = some v := by
  simp [Buf.read?_write]

theorem Buf.read?_write_other (b : Buf) {i k : Nat} (v : Byte) (h : k ≠ i) :
    Buf.read? (Buf.write b i v) k = Buf.read? b k := by
  simp [Buf.read?_write, h]

theorem Buf.read?_append (a b : Buf) (k : Nat) :
    Buf.read? (a ++ b) k = (Buf.read? a k).or (Buf.read? b k) := by
  induction a with
  | nil => rfl
  | cons c rest ih =>
    obtain ⟨j, w⟩ := c
    simp only [List.cons_append, Buf.read?]
    split
    · rfl
    · exact ih

theorem Buf.read?_filter (p : Nat → Bool) (b : Buf) (k : Nat) :
    Buf.read? (b.filter fun c => p c.1) k = if p k then Buf.read? b k else none := by
  induction b with
  | nil => simp
  | cons c rest ih =>
    obtain ⟨j, w⟩ := c
    by_cases hk : k = j
    · subst hk
      cases hp : p k <;> simp [hp, Buf.read?, ih]
    · cases hp : p j <;> simp [hp, Buf.read?, ih, hk]

/-- A copy of `n` bytes: the first `n` bytes are the source's, written or not; the rest stay. -/
theorem Buf.read?_copy (n : Nat) (src dst : Buf) (k : Nat) :
    Buf.read? (Buf.copy n src dst) k = if k < n then Buf.read? src k else Buf.read? dst k := by
  rw [Buf.copy, Buf.read?_append, Buf.read?_filter (fun j => decide (j < n)),
    Buf.read?_filter (fun j => decide (n ≤ j))]
  by_cases h : k < n
  · simp [h, Nat.not_le.mpr h]
  · simp [h, Nat.not_lt.mp h]

/-! ### The canonical form -/

theorem Buf.wfFrom_cons (lo j : Nat) (v : Byte) (rest : Buf) :
    Buf.wfFrom lo ((j, v) :: rest) = true ↔ lo ≤ j ∧ j < Config.cap ∧ Buf.wfFrom (j + 1) rest = true := by
  simp [Buf.wfFrom, and_assoc]

theorem Buf.wfFrom_mono {lo lo' : Nat} (h : lo' ≤ lo) {b : Buf} (hb : Buf.wfFrom lo b = true) :
    Buf.wfFrom lo' b = true := by
  cases b with
  | nil => rfl
  | cons c rest =>
    obtain ⟨j, v⟩ := c
    rw [Buf.wfFrom_cons] at hb ⊢
    exact ⟨h.trans hb.1, hb.2⟩

theorem Buf.wfFrom_write {lo i : Nat} (hlo : lo ≤ i) (hi : i < Config.cap) (v : Byte) {b : Buf}
    (hb : Buf.wfFrom lo b = true) : Buf.wfFrom lo (Buf.write b i v) = true := by
  induction b generalizing lo with
  | nil => simp [Buf.write, Buf.wfFrom, hlo, hi]
  | cons c rest ih =>
    obtain ⟨j, w⟩ := c
    rw [Buf.wfFrom_cons] at hb
    simp only [Buf.write]
    split
    · rename_i hlt
      simp only [Buf.wfFrom_cons]
      exact ⟨hlo, hi, hlt, hb.2.1, hb.2.2⟩
    · split
      · rename_i hij
        subst hij
        rw [Buf.wfFrom_cons]
        exact ⟨hlo, hi, hb.2.2⟩
      · rw [Buf.wfFrom_cons]
        exact ⟨hb.1, hb.2.1, ih (by omega) hb.2.2⟩

/-- A write inside 0..17 keeps the canonical form. -/
theorem Buf.wf_write {i : Nat} (hi : i < Config.cap) (v : Byte) {b : Buf} (hb : Buf.wf b = true) :
    Buf.wf (Buf.write b i v) = true :=
  Buf.wfFrom_write (Nat.zero_le i) hi v hb

theorem Buf.wfFrom_filter_ge {lo : Nat} (n : Nat) {b : Buf} (hb : Buf.wfFrom lo b = true) :
    Buf.wfFrom (max lo n) (b.filter fun c => decide (n ≤ c.1)) = true := by
  induction b generalizing lo with
  | nil => rfl
  | cons c rest ih =>
    obtain ⟨j, w⟩ := c
    rw [Buf.wfFrom_cons] at hb
    by_cases hn : n ≤ j
    · have h := ih hb.2.2
      rw [List.filter_cons, if_pos (by simpa using hn), Buf.wfFrom_cons]
      refine ⟨by omega, hb.2.1, ?_⟩
      rwa [max_eq_left (by omega)] at h
    · rw [List.filter_cons, if_neg (by simpa using hn)]
      exact Buf.wfFrom_mono (by omega) (ih hb.2.2)

/-- Every index a canonical array lists is at or above its bound. -/
theorem Buf.lower_bound {lo : Nat} {b : Buf} (hb : Buf.wfFrom lo b = true) {c : Host.Cell} (hc : c ∈ b) : lo ≤ c.1 := by
  induction b generalizing lo with
  | nil => cases hc
  | cons d rest ih =>
    obtain ⟨j, w⟩ := d
    rw [Buf.wfFrom_cons] at hb
    rcases List.mem_cons.mp hc with rfl | h
    · exact hb.1
    · have := ih hb.2.2 h
      omega

theorem Buf.wfFrom_filter_append {lo : Nat} (n : Nat) {b d : Buf} (hb : Buf.wfFrom lo b = true)
    (hd : Buf.wfFrom (max lo n) d = true) :
    Buf.wfFrom lo ((b.filter fun c => decide (c.1 < n)) ++ d) = true := by
  induction b generalizing lo with
  | nil => exact Buf.wfFrom_mono (by omega) hd
  | cons c rest ih =>
    obtain ⟨j, w⟩ := c
    rw [Buf.wfFrom_cons] at hb
    by_cases hj : j < n
    · rw [List.filter_cons, if_pos (by simpa using hj), List.cons_append, Buf.wfFrom_cons]
      refine ⟨hb.1, hb.2.1, ih hb.2.2 ?_⟩
      rwa [max_eq_right (by omega), ← max_eq_right (show lo ≤ n by omega)]
    · rw [List.filter_cons, if_neg (by simpa using hj)]
      have hrest : rest.filter (fun c => decide (c.1 < n)) = [] := by
        rw [List.filter_eq_nil_iff]
        intro c hc
        have := Buf.lower_bound hb.2.2 hc
        simp; omega
      rw [hrest, List.nil_append]
      exact Buf.wfFrom_mono (by omega) hd

/-- A copy keeps the canonical form. -/
theorem Buf.wf_copy (n : Nat) {src dst : Buf} (hs : Buf.wf src = true) (hd : Buf.wf dst = true) :
    Buf.wf (Buf.copy n src dst) = true :=
  Buf.wfFrom_filter_append n hs (Buf.wfFrom_filter_ge n hd)

@[simp] theorem Buf.wf_nil : Buf.wf [] = true := rfl

/-- Below its bound a canonical array has nothing written. -/
theorem Buf.read?_below {lo : Nat} {b : Buf} (hb : Buf.wfFrom lo b = true) {k : Nat} (hk : k < lo) :
    Buf.read? b k = none := by
  induction b generalizing lo with
  | nil => rfl
  | cons c rest ih =>
    obtain ⟨j, v⟩ := c
    rw [Buf.wfFrom_cons] at hb
    rw [Buf.read?, if_neg (by omega)]
    exact ih hb.2.2 (by omega)

theorem Buf.read?_ge_cap {lo : Nat} {b : Buf} (hb : Buf.wfFrom lo b = true) {k : Nat} (hk : Config.cap ≤ k) :
    Buf.read? b k = none := by
  induction b generalizing lo with
  | nil => rfl
  | cons c rest ih =>
    obtain ⟨j, v⟩ := c
    rw [Buf.wfFrom_cons] at hb
    rw [Buf.read?, if_neg (by omega)]
    exact ih hb.2.2

/-- Equal arrays are equal data: canonical arrays that read alike are the same list. -/
theorem Buf.eq_of_read?_eq {lo : Nat} {a b : Buf} (ha : Buf.wfFrom lo a = true) (hb : Buf.wfFrom lo b = true)
    (h : ∀ k, Buf.read? a k = Buf.read? b k) : a = b := by
  induction a generalizing lo b with
  | nil =>
    cases b with
    | nil => rfl
    | cons c rest => have := h c.1; simp [Buf.read?] at this
  | cons c rest ih =>
    obtain ⟨j, v⟩ := c
    cases b with
    | nil => have := h j; simp [Buf.read?] at this
    | cons d rest' =>
      obtain ⟨j', v'⟩ := d
      rw [Buf.wfFrom_cons] at ha hb
      have hjj : j = j' := by
        have h1 := h j
        have h2 := h j'
        simp only [Buf.read?, if_true] at h1 h2
        rcases Nat.lt_trichotomy j j' with hlt | heq | hgt
        · rw [if_neg (by omega), Buf.read?_below hb.2.2 (by omega)] at h1; cases h1
        · exact heq
        · rw [if_neg (by omega), Buf.read?_below ha.2.2 (by omega)] at h2; cases h2
      subst hjj
      have hv : v = v' := by simpa [Buf.read?] using h j
      subst hv
      congr 1
      refine ih ha.2.2 hb.2.2 fun k => ?_
      by_cases hk : k = j
      · subst hk; rw [Buf.read?_below ha.2.2 (by omega), Buf.read?_below hb.2.2 (by omega)]
      · simpa [Buf.read?, hk] using h k

/-! ### Written bytes -/

theorem Buf.writtenBelow_iff (n : Nat) (b : Buf) :
    Buf.writtenBelow n b = true ↔ ∀ i < n, (Buf.read? b i).isSome = true := by
  simp [Buf.writtenBelow]

@[simp] theorem Buf.writtenBelow_zero (b : Buf) : Buf.writtenBelow 0 b = true := rfl

/-- Storing at `n` makes one more byte written. -/
theorem Buf.writtenBelow_write {n : Nat} {b : Buf} (h : Buf.writtenBelow n b = true) (v : Byte) :
    Buf.writtenBelow (n + 1) (Buf.write b n v) = true := by
  rw [Buf.writtenBelow_iff] at h ⊢
  intro i hi
  rw [Buf.read?_write]
  split
  · rfl
  · exact h i (by omega)

/-- A copy of written bytes is written. -/
theorem Buf.writtenBelow_copy {n : Nat} {src dst : Buf} (h : Buf.writtenBelow n src = true) :
    Buf.writtenBelow n (Buf.copy n src dst) = true := by
  rw [Buf.writtenBelow_iff] at h ⊢
  intro i hi
  rw [Buf.read?_copy, if_pos hi]
  exact h i hi

/-- The arrays have the canonical form at reset (10_state.md R41). -/
theorem Memory.wf_reset : Memory.wf State.reset = true := rfl

end Sys2Proof.Machine
end

