-- ==== Sys2Proof/Laws/Decode.lean ====
section
/-! SUPPORT. The fields of a command word (30_encoding.md R80): what each field of an assembled word is, and that a word is
its fields. -/

namespace Sys2Proof

@[simp] theorem opField_cmdWord (op : BitVec 4) (c : Channel) (a b : Byte) : opField (cmdWord op c a b) = op := by
  simp only [opField, cmdWord]
  ext i hi
  simp
  grind

@[simp] theorem chField_cmdWord (op : BitVec 4) (c : Channel) (a b : Byte) :
    chField (cmdWord op c a b) = channelBit c := by
  simp only [chField, cmdWord]
  ext i hi
  simp
  grind

@[simp] theorem zField_cmdWord (op : BitVec 4) (c : Channel) (a b : Byte) : zField (cmdWord op c a b) = 0 := by
  simp only [zField, cmdWord]
  ext i hi
  simp
  grind

@[simp] theorem aField_cmdWord (op : BitVec 4) (c : Channel) (a b : Byte) : aField (cmdWord op c a b) = a := by
  simp only [aField, cmdWord]
  ext i hi
  simp
  grind

@[simp] theorem bField_cmdWord (op : BitVec 4) (c : Channel) (a b : Byte) : bField (cmdWord op c a b) = b := by
  simp only [bField, cmdWord]
  ext i hi
  simp
  grind

@[simp] theorem channelBit_channelOf (c : BitVec 1) : channelBit (channelOf c) = c := by
  revert c; decide

@[simp] theorem channelOf_channelBit (c : Channel) : channelOf (channelBit c) = c := by
  cases c <;> rfl

/-- A command word is its five fields, the high one first. -/
theorem word_eq_fields (w : CmdWord) : w = opField w ++ chField w ++ zField w ++ aField w ++ bField w := by
  simp only [opField, chField, zField, aField, bField]
  ext i hi
  simp
  grind

/-- A word with `z = 000` is the word of its other fields. -/
theorem cmdWord_fields (w : CmdWord) (hz : zField w = 0) :
    cmdWord (opField w) (channelOf (chField w)) (aField w) (bField w) = w := by
  conv_rhs => rw [word_eq_fields w, hz]
  rw [cmdWord, channelBit_channelOf]

/-- Words with equal fields are equal. -/
theorem word_ext_iff (u v : CmdWord) :
    u = v ↔ opField u = opField v ∧ chField u = chField v ∧ zField u = zField v ∧ aField u = aField v ∧
      bField u = bField v := by
  constructor
  · rintro rfl
    exact ⟨rfl, rfl, rfl, rfl, rfl⟩
  · rintro ⟨h1, h2, h3, h4, h5⟩
    rw [word_eq_fields u, word_eq_fields v, h1, h2, h3, h4, h5]

/-- A row selects a word field by field (R82). -/
theorem OpcodeRow.selects_iff (row : OpcodeRow) (w : CmdWord) :
    row.selects w = true ↔ opField w &&& opField row.mask = opField row.pattern ∧
      chField w &&& chField row.mask = chField row.pattern ∧ zField w &&& zField row.mask = zField row.pattern ∧
      aField w &&& aField row.mask = aField row.pattern ∧ bField w &&& bField row.mask = bField row.pattern := by
  simp only [OpcodeRow.selects, beq_iff_eq, word_ext_iff, opField, chField, zField, aField, bField,
    BitVec.extractLsb'_and]

/-- What the decoder answers a word with `z = 000`, an allowed channel and zero unused operands. -/
theorem decode_eq_ok_iff (w : CmdWord) (i : Instr) :
    decode w = .ok i ↔ zField w = 0 ∧ ((fieldUse (opField w)).ch = false → chField w = 0) ∧
      ((fieldUse (opField w)).a = false → aField w = 0) ∧ ((fieldUse (opField w)).b = false → bField w = 0) ∧
      operation (opField w) (channelOf (chField w)) (aField w) (bField w) = i := by
  unfold decode
  grind

end Sys2Proof
end

