-- ==== Sys2Proof/Laws/State.lean ====
section
/-! SUPPORT. One lemma per field for each named update of the state and of a channel, true by `rfl`, so that no proof
unfolds a record update. -/

namespace Sys2Proof.Machine

open Sys2Proof

/-! ### `Chan.rearm` -/

@[simp] theorem Chan.rearm_pst (k : Chan) : (k.rearm).pst = .idle := rfl
@[simp] theorem Chan.rearm_rxbuf (k : Chan) : (k.rearm).rxbuf = k.rxbuf := rfl
@[simp] theorem Chan.rearm_cnt (k : Chan) : (k.rearm).cnt = 0 := rfl
@[simp] theorem Chan.rearm_exp (k : Chan) : (k.rearm).exp = 0 := rfl
@[simp] theorem Chan.rearm_frame (k : Chan) : (k.rearm).frame = k.frame := rfl
@[simp] theorem Chan.rearm_flen (k : Chan) : (k.rearm).flen = k.flen := rfl
@[simp] theorem Chan.rearm_rdy (k : Chan) : (k.rearm).rdy = k.rdy := rfl

/-! ### `Chan.startFrame` -/

@[simp] theorem Chan.startFrame_pst (k : Chan) : (k.startFrame).pst = .headerCollecting := rfl
@[simp] theorem Chan.startFrame_rxbuf (k : Chan) : (k.startFrame).rxbuf = k.rxbuf := rfl
@[simp] theorem Chan.startFrame_cnt (k : Chan) : (k.startFrame).cnt = 0 := rfl
@[simp] theorem Chan.startFrame_exp (k : Chan) : (k.startFrame).exp = 0 := rfl
@[simp] theorem Chan.startFrame_frame (k : Chan) : (k.startFrame).frame = k.frame := rfl
@[simp] theorem Chan.startFrame_flen (k : Chan) : (k.startFrame).flen = k.flen := rfl
@[simp] theorem Chan.startFrame_rdy (k : Chan) : (k.startFrame).rdy = k.rdy := rfl

/-! ### `Chan.store` -/

@[simp] theorem Chan.store_pst (k : Chan) (b : Byte) : (k.store b).pst = k.pst := rfl
@[simp] theorem Chan.store_rxbuf (k : Chan) (b : Byte) : (k.store b).rxbuf = Buf.write k.rxbuf k.cnt.toNat b := rfl
@[simp] theorem Chan.store_cnt (k : Chan) (b : Byte) : (k.store b).cnt = k.cnt + 1 := rfl
@[simp] theorem Chan.store_exp (k : Chan) (b : Byte) : (k.store b).exp = k.exp := rfl
@[simp] theorem Chan.store_frame (k : Chan) (b : Byte) : (k.store b).frame = k.frame := rfl
@[simp] theorem Chan.store_flen (k : Chan) (b : Byte) : (k.store b).flen = k.flen := rfl
@[simp] theorem Chan.store_rdy (k : Chan) (b : Byte) : (k.store b).rdy = k.rdy := rfl

/-! ### `Chan.expect` -/

@[simp] theorem Chan.expect_pst (k : Chan) (n : Nat) : (k.expect n).pst = .payloadCollecting := rfl
@[simp] theorem Chan.expect_rxbuf (k : Chan) (n : Nat) : (k.expect n).rxbuf = k.rxbuf := rfl
@[simp] theorem Chan.expect_cnt (k : Chan) (n : Nat) : (k.expect n).cnt = k.cnt := rfl
@[simp] theorem Chan.expect_exp (k : Chan) (n : Nat) : (k.expect n).exp = BitVec.ofNat 5 (n + Config.hdr) := rfl
@[simp] theorem Chan.expect_frame (k : Chan) (n : Nat) : (k.expect n).frame = k.frame := rfl
@[simp] theorem Chan.expect_flen (k : Chan) (n : Nat) : (k.expect n).flen = k.flen := rfl
@[simp] theorem Chan.expect_rdy (k : Chan) (n : Nat) : (k.expect n).rdy = k.rdy := rfl

/-! ### `Chan.setRdy` -/

@[simp] theorem Chan.setRdy_pst (k : Chan) : (k.setRdy).pst = k.pst := rfl
@[simp] theorem Chan.setRdy_rxbuf (k : Chan) : (k.setRdy).rxbuf = k.rxbuf := rfl
@[simp] theorem Chan.setRdy_cnt (k : Chan) : (k.setRdy).cnt = k.cnt := rfl
@[simp] theorem Chan.setRdy_exp (k : Chan) : (k.setRdy).exp = k.exp := rfl
@[simp] theorem Chan.setRdy_frame (k : Chan) : (k.setRdy).frame = k.frame := rfl
@[simp] theorem Chan.setRdy_flen (k : Chan) : (k.setRdy).flen = k.flen := rfl
@[simp] theorem Chan.setRdy_rdy (k : Chan) : (k.setRdy).rdy = true := rfl

/-! ### `Chan.clearRdy` -/

@[simp] theorem Chan.clearRdy_pst (k : Chan) : (k.clearRdy).pst = k.pst := rfl
@[simp] theorem Chan.clearRdy_rxbuf (k : Chan) : (k.clearRdy).rxbuf = k.rxbuf := rfl
@[simp] theorem Chan.clearRdy_cnt (k : Chan) : (k.clearRdy).cnt = k.cnt := rfl
@[simp] theorem Chan.clearRdy_exp (k : Chan) : (k.clearRdy).exp = k.exp := rfl
@[simp] theorem Chan.clearRdy_frame (k : Chan) : (k.clearRdy).frame = k.frame := rfl
@[simp] theorem Chan.clearRdy_flen (k : Chan) : (k.clearRdy).flen = k.flen := rfl
@[simp] theorem Chan.clearRdy_rdy (k : Chan) : (k.clearRdy).rdy = false := rfl

/-! ### `State.drive` -/

@[simp] theorem State.drive_bus (s : State) (v : Byte) : (s.drive v).bus = s.bus := rfl
@[simp] theorem State.drive_link (s : State) (v : Byte) : (s.drive v).link = s.link := rfl
@[simp] theorem State.drive_ast (s : State) (v : Byte) : (s.drive v).ast = s.ast := rfl
@[simp] theorem State.drive_dly (s : State) (v : Byte) : (s.drive v).dly = s.dly := rfl
@[simp] theorem State.drive_pend (s : State) (v : Byte) : (s.drive v).pend = s.pend := rfl
@[simp] theorem State.drive_pbuf (s : State) (v : Byte) : (s.drive v).pbuf = s.pbuf := rfl
@[simp] theorem State.drive_plen (s : State) (v : Byte) : (s.drive v).plen = s.plen := rfl
@[simp] theorem State.drive_stg (s : State) (v : Byte) : (s.drive v).stg = s.stg := rfl
@[simp] theorem State.drive_txbuf (s : State) (v : Byte) : (s.drive v).txbuf = s.txbuf := rfl
@[simp] theorem State.drive_txlen (s : State) (v : Byte) : (s.drive v).txlen = s.txlen := rfl
@[simp] theorem State.drive_txidx (s : State) (v : Byte) : (s.drive v).txidx = s.txidx := rfl
@[simp] theorem State.drive_r (s : State) (v : Byte) : (s.drive v).r = v := rfl
@[simp] theorem State.drive_draws (s : State) (v : Byte) : (s.drive v).draws = s.draws + 1 := rfl
@[simp] theorem State.drive_cmds (s : State) (v : Byte) : (s.drive v).cmds = s.cmds := rfl
@[simp] theorem State.drive_cfg (s : State) (v : Byte) : (s.drive v).cfg = s.cfg := rfl

/-! ### `State.setPend` -/

@[simp] theorem State.setPend_bus (s : State) : (s.setPend).bus = s.bus := rfl
@[simp] theorem State.setPend_link (s : State) : (s.setPend).link = s.link := rfl
@[simp] theorem State.setPend_ast (s : State) : (s.setPend).ast = s.ast := rfl
@[simp] theorem State.setPend_dly (s : State) : (s.setPend).dly = s.dly := rfl
@[simp] theorem State.setPend_pend (s : State) : (s.setPend).pend = true := rfl
@[simp] theorem State.setPend_pbuf (s : State) : (s.setPend).pbuf = s.pbuf := rfl
@[simp] theorem State.setPend_plen (s : State) : (s.setPend).plen = s.plen := rfl
@[simp] theorem State.setPend_stg (s : State) : (s.setPend).stg = s.stg := rfl
@[simp] theorem State.setPend_txbuf (s : State) : (s.setPend).txbuf = s.txbuf := rfl
@[simp] theorem State.setPend_txlen (s : State) : (s.setPend).txlen = s.txlen := rfl
@[simp] theorem State.setPend_txidx (s : State) : (s.setPend).txidx = s.txidx := rfl
@[simp] theorem State.setPend_r (s : State) : (s.setPend).r = s.r := rfl
@[simp] theorem State.setPend_draws (s : State) : (s.setPend).draws = s.draws := rfl
@[simp] theorem State.setPend_cmds (s : State) : (s.setPend).cmds = s.cmds := rfl
@[simp] theorem State.setPend_cfg (s : State) : (s.setPend).cfg = s.cfg := rfl

/-! ### `State.clearPend` -/

@[simp] theorem State.clearPend_bus (s : State) : (s.clearPend).bus = s.bus := rfl
@[simp] theorem State.clearPend_link (s : State) : (s.clearPend).link = s.link := rfl
@[simp] theorem State.clearPend_ast (s : State) : (s.clearPend).ast = s.ast := rfl
@[simp] theorem State.clearPend_dly (s : State) : (s.clearPend).dly = s.dly := rfl
@[simp] theorem State.clearPend_pend (s : State) : (s.clearPend).pend = false := rfl
@[simp] theorem State.clearPend_pbuf (s : State) : (s.clearPend).pbuf = s.pbuf := rfl
@[simp] theorem State.clearPend_plen (s : State) : (s.clearPend).plen = s.plen := rfl
@[simp] theorem State.clearPend_stg (s : State) : (s.clearPend).stg = s.stg := rfl
@[simp] theorem State.clearPend_txbuf (s : State) : (s.clearPend).txbuf = s.txbuf := rfl
@[simp] theorem State.clearPend_txlen (s : State) : (s.clearPend).txlen = s.txlen := rfl
@[simp] theorem State.clearPend_txidx (s : State) : (s.clearPend).txidx = s.txidx := rfl
@[simp] theorem State.clearPend_r (s : State) : (s.clearPend).r = s.r := rfl
@[simp] theorem State.clearPend_draws (s : State) : (s.clearPend).draws = s.draws := rfl
@[simp] theorem State.clearPend_cmds (s : State) : (s.clearPend).cmds = s.cmds := rfl
@[simp] theorem State.clearPend_cfg (s : State) : (s.clearPend).cfg = s.cfg := rfl

/-! ### `State.loadPending` -/

@[simp] theorem State.loadPending_bus (s : State) (n : Nat) : (s.loadPending n).bus = s.bus := rfl
@[simp] theorem State.loadPending_link (s : State) (n : Nat) : (s.loadPending n).link = s.link := rfl
@[simp] theorem State.loadPending_ast (s : State) (n : Nat) : (s.loadPending n).ast = s.ast := rfl
@[simp] theorem State.loadPending_dly (s : State) (n : Nat) : (s.loadPending n).dly = s.dly := rfl
@[simp] theorem State.loadPending_pend (s : State) (n : Nat) : (s.loadPending n).pend = true := rfl
@[simp] theorem State.loadPending_pbuf (s : State) (n : Nat) : (s.loadPending n).pbuf = Buf.copy n s.stg s.pbuf := rfl
@[simp] theorem State.loadPending_plen (s : State) (n : Nat) : (s.loadPending n).plen = BitVec.ofNat 5 n := rfl
@[simp] theorem State.loadPending_stg (s : State) (n : Nat) : (s.loadPending n).stg = s.stg := rfl
@[simp] theorem State.loadPending_txbuf (s : State) (n : Nat) : (s.loadPending n).txbuf = s.txbuf := rfl
@[simp] theorem State.loadPending_txlen (s : State) (n : Nat) : (s.loadPending n).txlen = s.txlen := rfl
@[simp] theorem State.loadPending_txidx (s : State) (n : Nat) : (s.loadPending n).txidx = s.txidx := rfl
@[simp] theorem State.loadPending_r (s : State) (n : Nat) : (s.loadPending n).r = s.r := rfl
@[simp] theorem State.loadPending_draws (s : State) (n : Nat) : (s.loadPending n).draws = s.draws := rfl
@[simp] theorem State.loadPending_cmds (s : State) (n : Nat) : (s.loadPending n).cmds = s.cmds := rfl
@[simp] theorem State.loadPending_cfg (s : State) (n : Nat) : (s.loadPending n).cfg = s.cfg := rfl

/-! ### `State.enterPending` -/

@[simp] theorem State.enterPending_bus (s : State) : (s.enterPending).bus = s.bus := rfl
@[simp] theorem State.enterPending_link (s : State) : (s.enterPending).link = s.link := rfl
@[simp] theorem State.enterPending_ast (s : State) : (s.enterPending).ast = .pending := rfl
@[simp] theorem State.enterPending_dly (s : State) : (s.enterPending).dly = s.cfg.respDelay := rfl
@[simp] theorem State.enterPending_pend (s : State) : (s.enterPending).pend = s.pend := rfl
@[simp] theorem State.enterPending_pbuf (s : State) : (s.enterPending).pbuf = s.pbuf := rfl
@[simp] theorem State.enterPending_plen (s : State) : (s.enterPending).plen = s.plen := rfl
@[simp] theorem State.enterPending_stg (s : State) : (s.enterPending).stg = s.stg := rfl
@[simp] theorem State.enterPending_txbuf (s : State) : (s.enterPending).txbuf = s.txbuf := rfl
@[simp] theorem State.enterPending_txlen (s : State) : (s.enterPending).txlen = s.txlen := rfl
@[simp] theorem State.enterPending_txidx (s : State) : (s.enterPending).txidx = s.txidx := rfl
@[simp] theorem State.enterPending_r (s : State) : (s.enterPending).r = s.r := rfl
@[simp] theorem State.enterPending_draws (s : State) : (s.enterPending).draws = s.draws := rfl
@[simp] theorem State.enterPending_cmds (s : State) : (s.enterPending).cmds = s.cmds := rfl
@[simp] theorem State.enterPending_cfg (s : State) : (s.enterPending).cfg = s.cfg := rfl

/-! ### `State.countDown` -/

@[simp] theorem State.countDown_bus (s : State) : (s.countDown).bus = s.bus := rfl
@[simp] theorem State.countDown_link (s : State) : (s.countDown).link = s.link := rfl
@[simp] theorem State.countDown_ast (s : State) : (s.countDown).ast = s.ast := rfl
@[simp] theorem State.countDown_dly (s : State) : (s.countDown).dly = s.dly - 1 := rfl
@[simp] theorem State.countDown_pend (s : State) : (s.countDown).pend = s.pend := rfl
@[simp] theorem State.countDown_pbuf (s : State) : (s.countDown).pbuf = s.pbuf := rfl
@[simp] theorem State.countDown_plen (s : State) : (s.countDown).plen = s.plen := rfl
@[simp] theorem State.countDown_stg (s : State) : (s.countDown).stg = s.stg := rfl
@[simp] theorem State.countDown_txbuf (s : State) : (s.countDown).txbuf = s.txbuf := rfl
@[simp] theorem State.countDown_txlen (s : State) : (s.countDown).txlen = s.txlen := rfl
@[simp] theorem State.countDown_txidx (s : State) : (s.countDown).txidx = s.txidx := rfl
@[simp] theorem State.countDown_r (s : State) : (s.countDown).r = s.r := rfl
@[simp] theorem State.countDown_draws (s : State) : (s.countDown).draws = s.draws := rfl
@[simp] theorem State.countDown_cmds (s : State) : (s.countDown).cmds = s.cmds := rfl
@[simp] theorem State.countDown_cfg (s : State) : (s.countDown).cfg = s.cfg := rfl

/-! ### `State.beginTx` -/

@[simp] theorem State.beginTx_bus (s : State) : (s.beginTx).bus = s.bus.rearm := rfl
@[simp] theorem State.beginTx_link (s : State) : (s.beginTx).link = s.link := rfl
@[simp] theorem State.beginTx_ast (s : State) : (s.beginTx).ast = .txBreak := rfl
@[simp] theorem State.beginTx_dly (s : State) : (s.beginTx).dly = s.dly := rfl
@[simp] theorem State.beginTx_pend (s : State) : (s.beginTx).pend = false := rfl
@[simp] theorem State.beginTx_pbuf (s : State) : (s.beginTx).pbuf = s.pbuf := rfl
@[simp] theorem State.beginTx_plen (s : State) : (s.beginTx).plen = 0 := rfl
@[simp] theorem State.beginTx_stg (s : State) : (s.beginTx).stg = s.stg := rfl
@[simp] theorem State.beginTx_txbuf (s : State) : (s.beginTx).txbuf = Buf.copy s.plen.toNat s.pbuf s.txbuf := rfl
@[simp] theorem State.beginTx_txlen (s : State) : (s.beginTx).txlen = s.plen := rfl
@[simp] theorem State.beginTx_txidx (s : State) : (s.beginTx).txidx = 0 := rfl
@[simp] theorem State.beginTx_r (s : State) : (s.beginTx).r = s.r := rfl
@[simp] theorem State.beginTx_draws (s : State) : (s.beginTx).draws = s.draws := rfl
@[simp] theorem State.beginTx_cmds (s : State) : (s.beginTx).cmds = s.cmds := rfl
@[simp] theorem State.beginTx_cfg (s : State) : (s.beginTx).cfg = s.cfg := rfl

/-! ### `State.issueNext` -/

@[simp] theorem State.issueNext_bus (s : State) (w : CmdWord) : (s.issueNext w).bus = s.bus := rfl
@[simp] theorem State.issueNext_link (s : State) (w : CmdWord) : (s.issueNext w).link = s.link := rfl
@[simp] theorem State.issueNext_ast (s : State) (w : CmdWord) : (s.issueNext w).ast = s.ast := rfl
@[simp] theorem State.issueNext_dly (s : State) (w : CmdWord) : (s.issueNext w).dly = s.dly := rfl
@[simp] theorem State.issueNext_pend (s : State) (w : CmdWord) : (s.issueNext w).pend = s.pend := rfl
@[simp] theorem State.issueNext_pbuf (s : State) (w : CmdWord) : (s.issueNext w).pbuf = s.pbuf := rfl
@[simp] theorem State.issueNext_plen (s : State) (w : CmdWord) : (s.issueNext w).plen = s.plen := rfl
@[simp] theorem State.issueNext_stg (s : State) (w : CmdWord) : (s.issueNext w).stg = s.stg := rfl
@[simp] theorem State.issueNext_txbuf (s : State) (w : CmdWord) : (s.issueNext w).txbuf = s.txbuf := rfl
@[simp] theorem State.issueNext_txlen (s : State) (w : CmdWord) : (s.issueNext w).txlen = s.txlen := rfl
@[simp] theorem State.issueNext_txidx (s : State) (w : CmdWord) : (s.issueNext w).txidx = s.txidx := rfl
@[simp] theorem State.issueNext_r (s : State) (w : CmdWord) : (s.issueNext w).r = s.r := rfl
@[simp] theorem State.issueNext_draws (s : State) (w : CmdWord) : (s.issueNext w).draws = s.draws := rfl
@[simp] theorem State.issueNext_cmds (s : State) (w : CmdWord) : (s.issueNext w).cmds = w :: s.cmds := rfl
@[simp] theorem State.issueNext_cfg (s : State) (w : CmdWord) : (s.issueNext w).cfg = s.cfg := rfl

/-! ### `State.toReset` -/

@[simp] theorem State.toReset_bus (s : State) : (s.toReset).bus = Chan.reset := rfl
@[simp] theorem State.toReset_link (s : State) : (s.toReset).link = Chan.reset := rfl
@[simp] theorem State.toReset_ast (s : State) : (s.toReset).ast = .listen := rfl
@[simp] theorem State.toReset_dly (s : State) : (s.toReset).dly = 0 := rfl
@[simp] theorem State.toReset_pend (s : State) : (s.toReset).pend = false := rfl
@[simp] theorem State.toReset_pbuf (s : State) : (s.toReset).pbuf = [] := rfl
@[simp] theorem State.toReset_plen (s : State) : (s.toReset).plen = 0 := rfl
@[simp] theorem State.toReset_stg (s : State) : (s.toReset).stg = [] := rfl
@[simp] theorem State.toReset_txbuf (s : State) : (s.toReset).txbuf = [] := rfl
@[simp] theorem State.toReset_txlen (s : State) : (s.toReset).txlen = 0 := rfl
@[simp] theorem State.toReset_txidx (s : State) : (s.toReset).txidx = 0 := rfl
@[simp] theorem State.toReset_r (s : State) : (s.toReset).r = s.r := rfl
@[simp] theorem State.toReset_draws (s : State) : (s.toReset).draws = s.draws := rfl
@[simp] theorem State.toReset_cmds (s : State) : (s.toReset).cmds = s.cmds := rfl
@[simp] theorem State.toReset_cfg (s : State) : (s.toReset).cfg = s.cfg := rfl

/-! ### `State.setChan` -/

@[simp] theorem State.setChan_bus_bus (s : State) (k : Chan) : (s.setChan .bus k).bus = k := rfl
@[simp] theorem State.setChan_link_bus (s : State) (k : Chan) : (s.setChan .link k).bus = s.bus := rfl
@[simp] theorem State.setChan_link_link (s : State) (k : Chan) : (s.setChan .link k).link = k := rfl
@[simp] theorem State.setChan_bus_link (s : State) (k : Chan) : (s.setChan .bus k).link = s.link := rfl
@[simp] theorem State.setChan_ast (s : State) (c : Channel) (k : Chan) : (s.setChan c k).ast = s.ast := by
  cases c <;> rfl
@[simp] theorem State.setChan_dly (s : State) (c : Channel) (k : Chan) : (s.setChan c k).dly = s.dly := by
  cases c <;> rfl
@[simp] theorem State.setChan_pend (s : State) (c : Channel) (k : Chan) : (s.setChan c k).pend = s.pend := by
  cases c <;> rfl
@[simp] theorem State.setChan_pbuf (s : State) (c : Channel) (k : Chan) : (s.setChan c k).pbuf = s.pbuf := by
  cases c <;> rfl
@[simp] theorem State.setChan_plen (s : State) (c : Channel) (k : Chan) : (s.setChan c k).plen = s.plen := by
  cases c <;> rfl
@[simp] theorem State.setChan_stg (s : State) (c : Channel) (k : Chan) : (s.setChan c k).stg = s.stg := by
  cases c <;> rfl
@[simp] theorem State.setChan_txbuf (s : State) (c : Channel) (k : Chan) : (s.setChan c k).txbuf = s.txbuf := by
  cases c <;> rfl
@[simp] theorem State.setChan_txlen (s : State) (c : Channel) (k : Chan) : (s.setChan c k).txlen = s.txlen := by
  cases c <;> rfl
@[simp] theorem State.setChan_txidx (s : State) (c : Channel) (k : Chan) : (s.setChan c k).txidx = s.txidx := by
  cases c <;> rfl
@[simp] theorem State.setChan_r (s : State) (c : Channel) (k : Chan) : (s.setChan c k).r = s.r := by
  cases c <;> rfl
@[simp] theorem State.setChan_draws (s : State) (c : Channel) (k : Chan) : (s.setChan c k).draws = s.draws := by
  cases c <;> rfl
@[simp] theorem State.setChan_cmds (s : State) (c : Channel) (k : Chan) : (s.setChan c k).cmds = s.cmds := by
  cases c <;> rfl
@[simp] theorem State.setChan_cfg (s : State) (c : Channel) (k : Chan) : (s.setChan c k).cfg = s.cfg := by
  cases c <;> rfl

@[simp] theorem State.chan_bus (s : State) : s.chan .bus = s.bus := rfl
@[simp] theorem State.chan_link (s : State) : s.chan .link = s.link := rfl
@[simp] theorem State.chan_setChan_same (s : State) (c : Channel) (k : Chan) : (s.setChan c k).chan c = k := by
  cases c <;> rfl
theorem State.chan_setChan_other (s : State) {c c' : Channel} (k : Chan) (h : c' ≠ c) :
    (s.setChan c k).chan c' = s.chan c' := by
  cases c <;> cases c' <;> first | rfl | exact absurd rfl h
@[simp] theorem State.setChan_self (s : State) (c : Channel) : s.setChan c (s.chan c) = s := by
  cases c <;> rfl

/-! ### The outputs read `AST` and `TXBUF` only (10_state.md R36) -/

@[simp] theorem State.drive_chan (s : State) (v : Byte) (c : Channel) : (s.drive v).chan c = s.chan c := by
  cases c <;> rfl
@[simp] theorem State.drive_array (s : State) (v : Byte) (sp : Space) : (s.drive v).array sp = s.array sp := by
  cases sp <;> simp [State.array]
@[simp] theorem State.drive_byteAt (s : State) (v : Byte) (sp : Space) (i : Nat) :
    (s.drive v).byteAt sp i = s.byteAt sp i := by
  simp [State.byteAt]
@[simp] theorem State.drive_de (s : State) (v : Byte) : (s.drive v).de = s.de := rfl
@[simp] theorem State.drive_rxEn (s : State) (v : Byte) : (s.drive v).rxEn = s.rxEn := rfl
@[simp] theorem State.drive_brk (s : State) (v : Byte) : (s.drive v).brk = s.brk := rfl
@[simp] theorem State.drive_txValid (s : State) (v : Byte) : (s.drive v).txValid = s.txValid := rfl
@[simp] theorem State.setChan_de (s : State) (c : Channel) (k : Chan) : (s.setChan c k).de = s.de := by
  cases c <;> rfl
@[simp] theorem State.setChan_rxEn (s : State) (c : Channel) (k : Chan) : (s.setChan c k).rxEn = s.rxEn := by
  cases c <;> rfl

end Sys2Proof.Machine
end

