-- ==== Sys2Proof/Laws/Ops.lean ====
section
/-! SUPPORT. One lemma for each shared operation that says all it can do: the end of an operation, the operand forms, the
parser's moves, the transmission start, a step, a sequence of operations. -/

namespace Sys2Proof.Machine

open Sys2Proof

/-! ### The end of an operation -/

@[simp] theorem done_eq_next (s t : State) (v : Byte) : done s v = .next t ↔ s.drive v = t := by
  simp [done]

@[simp] theorem done_ne_refused (s : State) (v : Byte) (why : Refusal) : done s v ≠ .refused why := by
  simp [done]

@[simp] theorem done_ne_fault (s : State) (v : Byte) (why : Fault) : done s v ≠ .fault why := by
  simp [done]

/-! ### Operand forms (30_encoding.md R84) -/

theorem indexOperand_eq_some (b : Byte) (i : Nat) : indexOperand b = some i ↔ b.toNat ≤ 17 ∧ i = b.toNat := by
  by_cases h : b.toNat < 18 <;> simp [indexOperand, Config.cap, h] <;> omega

theorem indexOperand_eq_none (b : Byte) : indexOperand b = none ↔ 17 < b.toNat := by
  by_cases h : b.toNat < 18 <;> simp [indexOperand, Config.cap, h] <;> omega

theorem lengthOperand_eq_some (b : Byte) (n : Nat) :
    lengthOperand b = some n ↔ 1 ≤ b.toNat ∧ b.toNat ≤ 18 ∧ n = b.toNat := by
  by_cases h : 1 ≤ b.toNat ∧ b.toNat ≤ 18 <;> simp [lengthOperand, Config.cap, h] <;> omega

theorem lengthOperand_eq_none (b : Byte) : lengthOperand b = none ↔ b.toNat < 1 ∨ 18 < b.toNat := by
  by_cases h : 1 ≤ b.toNat ∧ b.toNat ≤ 18 <;> simp [lengthOperand, Config.cap, h] <;> omega

/-- The pairs of 43_control.md R232, and no other. -/
theorem selectorOperand_eq_some (c : Channel) (sel : Byte) (v : View) : selectorOperand c sel = some v ↔
    (c = .bus ∧ ((sel.toNat = 0 ∧ v = .arbiter) ∨ (sel.toNat = 1 ∧ v = .dly) ∨ (sel.toNat = 2 ∧ v = .txidx) ∨
      (sel.toNat = 3 ∧ v = .txlen) ∨ (sel.toNat = 4 ∧ v = .plen) ∨ (sel.toNat = 7 ∧ v = .txData))) ∨
    (sel.toNat = 5 ∧ v = .parser c) ∨ (sel.toNat = 6 ∧ v = .expected c) := by
  simp only [selectorOperand]
  generalize sel.toNat = n
  cases c <;> split <;> simp_all [eq_comm]

theorem selectorOperand_eq_none (c : Channel) (sel : Byte) :
    selectorOperand c sel = none ↔ 7 < sel.toNat ∨ (c = .link ∧ sel.toNat ≠ 5 ∧ sel.toNat ≠ 6) := by
  simp only [selectorOperand]
  generalize sel.toNat = n
  cases c <;> split <;> simp_all
  omega

/-- The range checks of WellFormed.lean are those of the meanings. -/
theorem indexInRange_iff (b : Byte) : indexInRange b = true ↔ (indexOperand b).isSome = true := by
  cases h : indexOperand b with
  | none => have := (indexOperand_eq_none b).1 h; simp [indexInRange]; omega
  | some i => have := (indexOperand_eq_some b i).1 h; simp [indexInRange]; omega

theorem lengthInRange_iff (b : Byte) : lengthInRange b = true ↔ (lengthOperand b).isSome = true := by
  cases h : lengthOperand b with
  | none => have := (lengthOperand_eq_none b).1 h; simp [lengthInRange]; omega
  | some i => have := (lengthOperand_eq_some b i).1 h; simp [lengthInRange]; omega

theorem selectorInTable_iff (c : Channel) (sel : Byte) :
    selectorInTable c sel = true ↔ (selectorOperand c sel).isSome = true := by
  cases h : selectorOperand c sel with
  | none => have := (selectorOperand_eq_none c sel).1 h; (cases c <;> simp_all [selectorInTable]); omega
  | some v => have := (selectorOperand_eq_some c sel v).1 h; cases c <;> simp_all [selectorInTable] <;> omega

/-! ### Parser moves (41_frame_parser.md) -/

theorem Chan.accept_of_rdy {k : Chan} (h : k.rdy = true) : k.accept = k.rearm := by simp [Chan.accept, h]

theorem Chan.accept_of_not_rdy {k : Chan} (h : k.rdy = false) :
    k.accept = { k.rearm.setRdy with frame := Buf.copy k.exp.toNat k.rxbuf k.frame, flen := k.exp } := by
  simp [Chan.accept, h]

/-- Completion publishes the frame, or leaves the published frame as it is (R160 to R162). -/
theorem Chan.complete_cases (k : Chan) (c : Channel) (draw : Nat) :
    (frameCheck c (k.collected c draw) = true ∧ k.rdy = false ∧ k.complete c draw =
      { k.rearm.setRdy with frame := Buf.copy k.exp.toNat k.rxbuf k.frame, flen := k.exp }) ∨
    ((frameCheck c (k.collected c draw) = false ∨ k.rdy = true) ∧ k.complete c draw = k.rearm) := by
  cases hv : frameCheck c (k.collected c draw) <;> cases hr : k.rdy <;>
    simp [Chan.complete, Chan.accept, hv, hr]

/-- One received byte does one of these: nothing, a frame start, a reset to Idle, a stored byte, the start of the payload,
or a completion (R152 to R163). -/
theorem Chan.receive_cases (k : Chan) (c : Channel) (draw : Nat) (b : Byte) :
    (k.pst = .idle ∧ k.receive c draw b = k) ∨
    (k.pst = .idle ∧ c = .link ∧ b = Config.sync ∧ k.receive c draw b = k.startFrame) ∨
    (k.pst ≠ .idle ∧ Config.cap ≤ k.cnt.toNat ∧ k.receive c draw b = k.rearm) ∨
    (k.pst = .headerCollecting ∧ k.cnt.toNat < Config.cap ∧ k.cnt + 1 ≠ 2 ∧ k.receive c draw b = k.store b) ∨
    (k.pst = .headerCollecting ∧ k.cnt.toNat < Config.cap ∧ k.cnt + 1 = 2 ∧ c = .link ∧ 16 ≤ b.toNat ∧
      k.receive c draw b = (k.store b).rearm) ∨
    (k.pst = .headerCollecting ∧ k.cnt.toNat < Config.cap ∧ k.cnt + 1 = 2 ∧ ∃ n ≤ 15,
      k.receive c draw b = (k.store b).expect n) ∨
    (k.pst = .payloadCollecting ∧ k.cnt.toNat < Config.cap ∧ k.cnt + 1 ≠ k.exp ∧ k.receive c draw b = k.store b) ∨
    (k.pst = .payloadCollecting ∧ k.cnt.toNat < Config.cap ∧ k.cnt + 1 = k.exp ∧
      k.receive c draw b = (k.store b).complete c draw) := by
  have hnib : (b &&& 0x0F).toNat ≤ 15 := by
    rw [BitVec.toNat_and]; exact Nat.and_le_right
  unfold Chan.receive
  cases hp : k.pst with
  | idle => cases c <;> by_cases hb : b = Config.sync <;> simp [Chan.idleByte, hb]
  | headerCollecting =>
    by_cases hc : Config.cap ≤ k.cnt.toNat
    · simp [hc]
    · have hlt := Nat.not_le.mp hc
      simp only [reduceCtorEq, hc, ↓reduceIte, hlt, false_and, true_and, and_false, false_or, or_false, ne_eq]
      by_cases h2 : k.cnt + 1 = 2
      · cases c with
        | bus => exact .inr (.inr ⟨h2, _, hnib, by simp only [Chan.header, Chan.busHeader, Chan.store_cnt, h2]; rfl⟩)
        | link =>
          by_cases h16 : 16 ≤ b.toNat
          · exact .inr (.inl ⟨h2, rfl, h16, by
              simp only [Chan.header, Chan.linkHeader, Chan.store_cnt, h2, h16, ↓reduceIte]⟩)
          · exact .inr (.inr ⟨h2, b.toNat, by omega, by
              simp only [Chan.header, Chan.linkHeader, Chan.store_cnt, h2, h16, ↓reduceIte]⟩)
      · refine .inl ⟨h2, ?_⟩
        cases c <;> simp only [Chan.header, Chan.busHeader, Chan.linkHeader, Chan.store_cnt, h2, ↓reduceIte]
  | payloadCollecting =>
    by_cases hc : Config.cap ≤ k.cnt.toNat
    · simp [hc]
    · have hlt := Nat.not_le.mp hc
      by_cases h2 : k.cnt + 1 = k.exp <;>
        simp only [Chan.payload, Chan.store_cnt, Chan.store_exp, hc, h2, hlt, ↓reduceIte, reduceCtorEq, false_and,
          true_and, and_false, and_true, or_false, ne_eq, not_true_eq_false, not_false_eq_true, or_true]

/-! ### The transmission start (42_arbiter.md R196) -/

theorem startTx_eq_next (s t : State) : startTx s = .next t ↔
    (s.pend = false ∧ ({ s with ast := .listen } : State).drive 0 = t) ∨
    (s.pend = true ∧ s.plen.toNat ≤ Config.cap ∧ s.beginTx.drive 0 = t) := by
  unfold startTx
  cases hp : s.pend <;> by_cases hl : s.plen.toNat ≤ Config.cap <;> simp [hl]

theorem startTx_eq_fault (s : State) (why : Fault) :
    startTx s = .fault why ↔ s.pend = true ∧ Config.cap < s.plen.toNat := by
  cases why
  unfold startTx
  cases hp : s.pend <;> by_cases hl : s.plen.toNat ≤ Config.cap <;> simp [hl, done]; omega

/-! ### A step -/

/-- A step performs nothing, refuses a reserved word, or performs an operation on the state without its word. -/
theorem step_cases (s : State) :
    (s.cmds = [] ∧ step s = .next s) ∨
    ∃ w rest, s.cmds = w :: rest ∧
      ((∃ e, decode w = .error e ∧ step s = .refused .rsvd) ∨
        ∃ i, decode w = .ok i ∧ step s = exec i { s with cmds := rest }) := by
  cases hc : s.cmds with
  | nil => exact .inl ⟨rfl, by simp [step, State.takeCommand, hc]⟩
  | cons w rest =>
    refine .inr ⟨w, rest, rfl, ?_⟩
    cases hd : decode w with
    | error e => exact .inl ⟨e, rfl, by cases e <;> simp [step, State.takeCommand, hc, hd, reservedRefusal]⟩
    | ok i => exact .inr ⟨i, rfl, by simp [step, State.takeCommand, hc, hd]⟩

/-! ### Sequences of operations -/

@[simp] theorem runOps_nil (s : State) : runOps [] s = .next s := rfl

theorem runOps_cons_next {i : Instr} {rest : List Instr} {s t : State} :
    runOps (i :: rest) s = .next t ↔ ∃ u, exec i s = .next u ∧ runOps rest u = .next t := by
  rw [runOps]
  cases exec i s <;> simp

theorem runOps_append_next {a b : List Instr} {s t : State} :
    runOps (a ++ b) s = .next t ↔ ∃ u, runOps a s = .next u ∧ runOps b u = .next t := by
  induction a generalizing s with
  | nil => simp
  | cons i a ih => simp only [List.cons_append, runOps_cons_next, ih]; aesop

end Sys2Proof.Machine
end

