-- ==== Sys2Proof/Laws/Exec.lean ====
section
/-! SUPPORT. One lemma for each meaning that branches: when it answers a next state, and which. -/

namespace Sys2Proof.Machine

open Sys2Proof

theorem execRxByte_next {c : Channel} {b : Byte} {s t : State} : execRxByte c b s = .next t ↔
    (s.listening c = true ∧ (s.setChan c ((s.chan c).receive c s.draws b)).drive 0 = t) ∨
    (s.listening c = false ∧ s.drive 0 = t) := by
  cases h : s.listening c <;> simp [execRxByte, h]

theorem execRxBreak_next {c : Channel} {s t : State} : execRxBreak c s = .next t ↔
    (s.listening c = true ∧ (s.setChan c ((s.chan c).lineBreak c)).drive 0 = t) ∨
    (s.listening c = false ∧ s.drive 0 = t) := by
  cases h : s.listening c <;> simp [execRxBreak, h]

theorem execFrmRead_next {c : Channel} {idx : Byte} {s t : State} : execFrmRead c idx s = .next t ↔
    idx.toNat ≤ 17 ∧ s.drive (s.bufRead (.frame c) idx.toNat) = t := by
  cases h : indexOperand idx with
  | none => have := (indexOperand_eq_none idx).1 h; simp [execFrmRead, h]; omega
  | some i => obtain ⟨h1, rfl⟩ := (indexOperand_eq_some idx i).1 h; simp [execFrmRead, h, h1]

theorem execStgWrite_next {idx b : Byte} {s t : State} : execStgWrite idx b s = .next t ↔
    idx.toNat ≤ 17 ∧ ({ s with stg := Buf.write s.stg idx.toNat b } : State).drive 0 = t := by
  cases h : indexOperand idx with
  | none => have := (indexOperand_eq_none idx).1 h; simp [execStgWrite, h]; omega
  | some i => obtain ⟨h1, rfl⟩ := (indexOperand_eq_some idx i).1 h; simp [execStgWrite, h, h1]

theorem execTxQueue_next {len : Byte} {s t : State} : execTxQueue len s = .next t ↔
    (1 ≤ len.toNat ∧ len.toNat ≤ 18) ∧
    ((s.pend = true ∧ s.drive 0 = t) ∨
      (s.pend = false ∧ s.ast = .listen ∧ (s.loadPending len.toNat).enterPending.drive 1 = t) ∨
      (s.pend = false ∧ s.ast ≠ .listen ∧ (s.loadPending len.toNat).drive 1 = t)) := by
  cases h : lengthOperand len with
  | none => have := (lengthOperand_eq_none len).1 h; simp [execTxQueue, h]; omega
  | some n =>
    obtain ⟨h1, h2, rfl⟩ := (lengthOperand_eq_some len n).1 h
    by_cases ha : s.ast = .listen <;> cases hp : s.pend <;> simp [execTxQueue, h, h1, h2, ha, hp]

theorem execTick_next {s t : State} : execTick s = .next t ↔
    (s.ast ≠ .pending ∧ s.drive 0 = t) ∨
    (s.ast = .pending ∧ s.dly - 1 ≠ 0 ∧ s.countDown.drive 0 = t) ∨
    (s.ast = .pending ∧ s.dly - 1 = 0 ∧ s.pend = false ∧ ({ s.countDown with ast := .listen } : State).drive 0 = t) ∨
    (s.ast = .pending ∧ s.dly - 1 = 0 ∧ s.pend = true ∧ s.plen.toNat ≤ Config.cap ∧
      s.countDown.beginTx.drive 0 = t) := by
  unfold execTick
  by_cases ha : s.ast = .pending
  · by_cases hd : s.dly - 1 = 0
    · rw [if_pos ha, if_pos (by rw [State.countDown_dly]; exact hd), startTx_eq_next]
      simp only [ha, hd, State.countDown_pend, State.countDown_plen, ne_eq, not_true_eq_false, false_and, true_and,
        false_or]
    · rw [if_pos ha, if_neg (by rw [State.countDown_dly]; exact hd)]
      simp only [ha, hd, done_eq_next, ne_eq, not_true_eq_false, not_false_eq_true, false_and, true_and, false_or,
        or_false]
  · simp [ha]

theorem execTxBreakDone_next {s t : State} : execTxBreakDone s = .next t ↔
    s.ast = .txBreak ∧ ({ s with txidx := 0, ast := .txShift } : State).drive 0 = t := by
  by_cases h : s.ast = .txBreak <;> simp [execTxBreakDone, h]

theorem execTxByteDone_next {s t : State} : execTxByteDone s = .next t ↔
    s.ast = .txShift ∧
    ((s.txidx + 1 = s.txlen ∧ ({ s with txidx := s.txidx + 1, ast := .txDrain } : State).drive 0 = t) ∨
      (s.txidx + 1 ≠ s.txlen ∧ ({ s with txidx := s.txidx + 1 } : State).drive 0 = t)) := by
  unfold execTxByteDone
  by_cases h : s.ast = .txShift
  · by_cases hl : s.txidx + 1 = s.txlen
    · rw [if_pos h, if_pos hl, done_eq_next]; simp only [h, hl, ne_eq, not_true_eq_false, false_and, true_and, or_false]
    · rw [if_pos h, if_neg hl, done_eq_next]
      simp only [h, hl, ne_eq, not_false_eq_true, false_and, true_and, false_or]
  · simp [h]

theorem execTxIdle_next {s t : State} : execTxIdle s = .next t ↔
    s.ast = .txDrain ∧
    ((s.pend = true ∧ s.enterPending.drive 0 = t) ∨
      (s.pend = false ∧ ({ s with ast := .listen } : State).drive 0 = t)) := by
  by_cases h : s.ast = .txDrain <;> cases hp : s.pend <;> simp [execTxIdle, h, hp]

theorem execStatRead_next {c : Channel} {sel : Byte} {s t : State} : execStatRead c sel s = .next t ↔
    ∃ v, selectorOperand c sel = some v ∧ s.viewInBounds v = true ∧ s.drive (s.view v) = t := by
  cases h : selectorOperand c sel with
  | none => simp [execStatRead, h]
  | some v => cases hb : s.viewInBounds v <;> simp [execStatRead, h, hb]

/-- Every operation that answers a next state, by its meaning. -/
theorem exec_next_cases {i : Instr} {s t : State} (h : exec i s = .next t) :
    (∃ v, s.drive v = t ∧
      (i = .nop ∨ (∃ a b, i = .crcStep a b) ∨ (∃ a b, i = .sumStep a b) ∨ (∃ c idx, i = .frmRead c idx) ∨
        (∃ c, i = .frmInfo c) ∨ ∃ c sel, i = .statRead c sel)) ∨
    (∃ c b, i = .rxByte c b ∧ execRxByte c b s = .next t) ∨
    (∃ c, i = .rxBreak c ∧ execRxBreak c s = .next t) ∨
    (∃ c, i = .frmRelease c ∧ (s.setChan c (s.chan c).clearRdy).drive 0 = t) ∨
    (∃ idx b, i = .stgWrite idx b ∧ execStgWrite idx b s = .next t) ∨
    (∃ len, i = .txQueue len ∧ execTxQueue len s = .next t) ∨
    (i = .tick ∧ execTick s = .next t) ∨
    (i = .txBreakDone ∧ execTxBreakDone s = .next t) ∨
    (i = .txByteDone ∧ execTxByteDone s = .next t) ∨
    (i = .txIdle ∧ execTxIdle s = .next t) ∨
    (i = .reset ∧ s.toReset.drive 0 = t) := by
  cases i with
  | nop => exact .inl ⟨0, by simpa [exec, execNop] using h, by simp⟩
  | crcStep a b => exact .inl ⟨_, by simpa [exec, execCrcStep] using h, by simp⟩
  | sumStep a b => exact .inl ⟨_, by simpa [exec, execSumStep] using h, by simp⟩
  | frmRead c idx => exact .inl ⟨_, (execFrmRead_next.1 h).2, by simp⟩
  | frmInfo c => exact .inl ⟨_, by simpa [exec, execFrmInfo] using h, by simp⟩
  | statRead c sel => obtain ⟨v, -, -, hv⟩ := execStatRead_next.1 h; exact .inl ⟨_, hv, by simp⟩
  | frmRelease c => simp only [exec, execFrmRelease, done_eq_next] at h; simpa using h
  | reset => simp only [exec, execReset, done_eq_next] at h; simpa using h
  | rxByte c b => simp only [exec] at h; simp [h]
  | rxBreak c => simp only [exec] at h; simp [h]
  | stgWrite idx b => simp only [exec] at h; simp [h]
  | txQueue len => simp only [exec] at h; simp [h]
  | tick => simp only [exec] at h; simp [h]
  | txBreakDone => simp only [exec] at h; simp [h]
  | txByteDone => simp only [exec] at h; simp [h]
  | txIdle => simp only [exec] at h; simp [h]

end Sys2Proof.Machine
end

