-- ==== Sys2Proof/Laws/PerInstr.lean ====
section
/-! SUPPORT. The family RowMatch of LAWS.json: an operation's word carries the opcode of its row of 30_encoding.md R82 and
zeros in the reserved field. -/

namespace Sys2Proof.Laws.RowMatch

open Sys2Proof

/-- The match of R82 is `op << 20`; `z` is 000 (R80). -/
def Statement (i : Instr) : Prop :=
  (rowOf i).pattern = (opField (encode i)).setWidth 24 <<< 20 ∧ zField (encode i) = 0

theorem nop : Statement .nop := by simp [Statement, encode, rowOf]

theorem crcStep (acc data : Byte) : Statement (.crcStep acc data) := by simp [Statement, encode, rowOf]

theorem sumStep (acc data : Byte) : Statement (.sumStep acc data) := by simp [Statement, encode, rowOf]

theorem rxByte (ch : Channel) (data : Byte) : Statement (.rxByte ch data) := by simp [Statement, encode, rowOf]

theorem rxBreak (ch : Channel) : Statement (.rxBreak ch) := by simp [Statement, encode, rowOf]

theorem frmRead (ch : Channel) (idx : Byte) : Statement (.frmRead ch idx) := by simp [Statement, encode, rowOf]

theorem frmInfo (ch : Channel) : Statement (.frmInfo ch) := by simp [Statement, encode, rowOf]

theorem frmRelease (ch : Channel) : Statement (.frmRelease ch) := by simp [Statement, encode, rowOf]

theorem stgWrite (idx data : Byte) : Statement (.stgWrite idx data) := by simp [Statement, encode, rowOf]

theorem txQueue (len : Byte) : Statement (.txQueue len) := by simp [Statement, encode, rowOf]

theorem tick : Statement .tick := by simp [Statement, encode, rowOf]

theorem txBreakDone : Statement .txBreakDone := by simp [Statement, encode, rowOf]

theorem txByteDone : Statement .txByteDone := by simp [Statement, encode, rowOf]

theorem txIdle : Statement .txIdle := by simp [Statement, encode, rowOf]

theorem statRead (ch : Channel) (sel : Byte) : Statement (.statRead ch sel) := by simp [Statement, encode, rowOf]

theorem reset : Statement .reset := by simp [Statement, encode, rowOf]

end Sys2Proof.Laws.RowMatch
end

