-- ==== Sys2Proof/Tests/Slice0.lean ====
section
/-! SUPPORT. The model's own tests. Expected values come from spec/: 95_test_vectors.md (V-…), and the rules named. Each
`witness_` theorem meets the hypotheses of the obligation its name starts with. -/

namespace Sys2Proof.Tests

open Sys2Proof Sys2Proof.Machine

/-! ### Helpers -/

/-- The array whose first bytes are `l`, the rest unwritten. -/
def cells (l : List Byte) : Buf := (List.range l.length).zip l

/-- A parser with collected bytes `l` and expected length `n`. -/
def parsing (pst : PState) (l : List Byte) (n : Count) : Chan :=
  { Chan.reset with pst := pst, rxbuf := cells l, cnt := BitVec.ofNat 5 l.length, exp := n }

/-- `k` with the frame `f` published and not released. -/
def publishing (k : Chan) (f : List Byte) : Chan :=
  { k with frame := cells f, flen := BitVec.ofNat 5 f.length, rdy := true }

/-- The reset state with channel `c` at `k`. -/
def onChan (c : Channel) (k : Chan) : State := State.reset.setChan c k

/-- The response `f` waiting, `d` ticks left. -/
def waiting (d : BitVec 8) (f : List Byte) : State :=
  { State.reset with ast := .pending, dly := d, pend := true, pbuf := cells f, plen := BitVec.ofNat 5 f.length }

/-- The frame `f` in transmission, its next byte `i`. -/
def sending (a : AState) (f : List Byte) (i : Count) : State :=
  { State.reset with ast := a, txbuf := cells f, txlen := BitVec.ofNat 5 f.length, txidx := i }

/-- `s` with the response `f` pending. -/
def queued (s : State) (f : List Byte) : State :=
  { s with pend := true, pbuf := cells f, plen := BitVec.ofNat 5 f.length }

/-- The outcome is a next state with a property. -/
def nextIs (o : Host.Outcome State Fault Refusal) (p : State → Bool) : Bool :=
  match o with
  | .next t => p t
  | .fault _ => false
  | .refused _ => false

/-- The outcome is a refusal for a reason. -/
def refusedFor (o : Host.Outcome State Fault Refusal) (why : Refusal) : Bool :=
  match o with
  | .next _ => false
  | .fault _ => false
  | .refused r => r == why

/-- One command word performed. -/
def perform (w : CmdWord) (s : State) : Host.Outcome State Fault Refusal := step (s.issueNext w)

/-- The scan request of V-C5. -/
def scan : List Byte := [0x28, 0x01, 0x01, 0xD1]

/-- The scan response of V-C6. -/
def response : List Byte := [0x80, 0x12, 0x14, 0x28, 0xA7]

/-- The action frame of V-S3, as collected. -/
def action : List Byte := [0x01, 0x01, 0x02, 0x59]

/-- The largest BUS frame, of V-C9a. -/
def largest : List Byte := [0x00, 0x0F, 1, 2, 3, 4, 5, 6, 7, 8, 9, 10, 11, 12, 13, 14, 15, 0xF6]

/-- The largest LINK frame, of V-P9, as collected. -/
def largestLink : List Byte := [0x02, 0x0F] ++ List.replicate 15 0x55 ++ [0x61]

/-! ### Agents -/

/-- R262's row of the tick source, its NOP, and R82's NOP of any agent. -/
theorem test_agents : issuer .nop = .consumer ∧ issuer .tick = .tickSource ∧ issuer (.rxByte .link 0) = .linkTransport ∧
    (∀ a ∈ [Agent.busTransport, .linkTransport, .tickSource, .consumer, .resetSource], mayIssue a .nop = true) ∧
    mayIssue .consumer .tick = false := by decide

/-! ### WellFormed: each check refuses an ill-formed term (R84) -/

theorem test_wellFormed_index_read : (Instr.frmRead .link 18).wellFormed = false := by decide
theorem test_wellFormed_index_write : (Instr.stgWrite 18 0).wellFormed = false := by decide
theorem test_wellFormed_length_zero : (Instr.txQueue 0).wellFormed = false := by decide
theorem test_wellFormed_length_over : (Instr.txQueue 19).wellFormed = false := by decide
theorem test_wellFormed_selector_bus : (Instr.statRead .bus 8).wellFormed = false := by decide
theorem test_wellFormed_selector_link :
    (Instr.statRead .link 4).wellFormed = false ∧ (Instr.statRead .link 7).wellFormed = false := by decide
theorem test_wellFormed_accepts : (Instr.frmRead .bus 17).wellFormed = true ∧ (Instr.stgWrite 17 0).wellFormed = true ∧
    (Instr.txQueue 1).wellFormed = true ∧ (Instr.txQueue 18).wellFormed = true ∧
    (Instr.statRead .bus 7).wellFormed = true ∧ (Instr.statRead .link 5).wellFormed = true ∧
    (Instr.statRead .link 6).wellFormed = true := by decide

/-! ### Decode: one word of each row, its fields written out from R80 and R82 (op, ch, z, a, b) -/

theorem test_decode_nop : decode 0b0000_0_000_00000000_00000000 = .ok .nop := rfl
theorem test_decode_crcStep : decode 0b0001_0_000_11110011_00101000 = .ok (.crcStep 0xF3 0x28) := rfl
theorem test_decode_sumStep : decode 0b0010_0_000_01010101_00000001 = .ok (.sumStep 0x55 0x01) := rfl
theorem test_decode_rxByte : decode 0b0011_1_000_00000000_01010101 = .ok (.rxByte .link 0x55) := rfl
theorem test_decode_rxBreak : decode 0b0100_1_000_00000000_00000000 = .ok (.rxBreak .link) := rfl
theorem test_decode_frmRead : decode 0b0101_0_000_00000000_00010010 = .ok (.frmRead .bus 18) := rfl
theorem test_decode_frmInfo : decode 0b0110_1_000_00000000_00000000 = .ok (.frmInfo .link) := rfl
theorem test_decode_frmRelease : decode 0b0111_0_000_00000000_00000000 = .ok (.frmRelease .bus) := rfl
theorem test_decode_stgWrite : decode 0b1000_0_000_00000100_10100111 = .ok (.stgWrite 4 0xA7) := rfl
theorem test_decode_txQueue : decode 0b1001_0_000_00000000_00000101 = .ok (.txQueue 5) := rfl
theorem test_decode_tick : decode 0b1010_0_000_00000000_00000000 = .ok .tick := rfl
theorem test_decode_txBreakDone : decode 0b1011_0_000_00000000_00000000 = .ok .txBreakDone := rfl
theorem test_decode_txByteDone : decode 0b1100_0_000_00000000_00000000 = .ok .txByteDone := rfl
theorem test_decode_txIdle : decode 0b1101_0_000_00000000_00000000 = .ok .txIdle := rfl
theorem test_decode_statRead : decode 0b1110_1_000_00000000_00000101 = .ok (.statRead .link 5) := rfl
theorem test_decode_reset : decode 0b1111_0_000_00000000_00000000 = .ok .reset := rfl

/-- The encoder gives the words of the spec's listings (R88, P1 to P5). -/
theorem test_encode : encode (.crcStep 0xF3 0x28) = 0x10F328 ∧ encode (.rxByte .link 0x55) = 0x380055 ∧
    encode (.statRead .bus 5) = 0xE00005 ∧ encode (.stgWrite 4 0xA7) = 0x8004A7 ∧ encode (.frmInfo .link) = 0x680000 ∧
    encode (.rxBreak .link) = 0x480000 ∧ encode (.txQueue 5) = 0x900005 ∧ encode .reset = 0xF00000 := by decide

/-- V-E1 to V-E10: reserved words, by the first check that fails. -/
theorem test_decode_reserved : decode 0x010000 = .error .zField ∧ decode 0x000001 = .error .operand ∧
    decode 0x180000 = .error .channel ∧ decode 0x980005 = .error .channel ∧ decode 0x500112 = .error .operand ∧
    decode 0x900100 = .error .operand ∧ decode 0xB10000 = .error .zField ∧ decode 0xA80000 = .error .channel ∧
    decode 0x3F0055 = .error .zField ∧ decode 0x300155 = .error .operand ∧ decode 0xF00001 = .error .operand :=
  ⟨rfl, rfl, rfl, rfl, rfl, rfl, rfl, rfl, rfl, rfl, rfl⟩

theorem test_decodeTableWord : decodeTableWord 24 0x205501 = some (.sumStep 0x55 0x01) ∧
    decodeTableWord 24 0xA80000 = none := ⟨rfl, rfl⟩

/-! ### The engines (V-C1 to V-C12, V-S1 to V-S8) -/

/-- Row `n` of the table. -/
def crcRow (n : Nat) : List Byte := (List.range 16).map fun i => crcTable (BitVec.ofNat 8 (16 * n + i))

/-- The table printed in R122, rows 0x to 7x. -/
theorem test_crcTable_low :
    crcRow 0 = [0x00, 0x07, 0x0E, 0x09, 0x1C, 0x1B, 0x12, 0x15, 0x38, 0x3F, 0x36, 0x31, 0x24, 0x23, 0x2A, 0x2D] ∧
    crcRow 1 = [0x70, 0x77, 0x7E, 0x79, 0x6C, 0x6B, 0x62, 0x65, 0x48, 0x4F, 0x46, 0x41, 0x54, 0x53, 0x5A, 0x5D] ∧
    crcRow 2 = [0xE0, 0xE7, 0xEE, 0xE9, 0xFC, 0xFB, 0xF2, 0xF5, 0xD8, 0xDF, 0xD6, 0xD1, 0xC4, 0xC3, 0xCA, 0xCD] ∧
    crcRow 3 = [0x90, 0x97, 0x9E, 0x99, 0x8C, 0x8B, 0x82, 0x85, 0xA8, 0xAF, 0xA6, 0xA1, 0xB4, 0xB3, 0xBA, 0xBD] ∧
    crcRow 4 = [0xC7, 0xC0, 0xC9, 0xCE, 0xDB, 0xDC, 0xD5, 0xD2, 0xFF, 0xF8, 0xF1, 0xF6, 0xE3, 0xE4, 0xED, 0xEA] ∧
    crcRow 5 = [0xB7, 0xB0, 0xB9, 0xBE, 0xAB, 0xAC, 0xA5, 0xA2, 0x8F, 0x88, 0x81, 0x86, 0x93, 0x94, 0x9D, 0x9A] ∧
    crcRow 6 = [0x27, 0x20, 0x29, 0x2E, 0x3B, 0x3C, 0x35, 0x32, 0x1F, 0x18, 0x11, 0x16, 0x03, 0x04, 0x0D, 0x0A] ∧
    crcRow 7 = [0x57, 0x50, 0x59, 0x5E, 0x4B, 0x4C, 0x45, 0x42, 0x6F, 0x68, 0x61, 0x66, 0x73, 0x74, 0x7D, 0x7A] := by
  decide

/-- The table printed in R122, rows 8x to Fx. -/
theorem test_crcTable_high :
    crcRow 8 = [0x89, 0x8E, 0x87, 0x80, 0x95, 0x92, 0x9B, 0x9C, 0xB1, 0xB6, 0xBF, 0xB8, 0xAD, 0xAA, 0xA3, 0xA4] ∧
    crcRow 9 = [0xF9, 0xFE, 0xF7, 0xF0, 0xE5, 0xE2, 0xEB, 0xEC, 0xC1, 0xC6, 0xCF, 0xC8, 0xDD, 0xDA, 0xD3, 0xD4] ∧
    crcRow 10 = [0x69, 0x6E, 0x67, 0x60, 0x75, 0x72, 0x7B, 0x7C, 0x51, 0x56, 0x5F, 0x58, 0x4D, 0x4A, 0x43, 0x44] ∧
    crcRow 11 = [0x19, 0x1E, 0x17, 0x10, 0x05, 0x02, 0x0B, 0x0C, 0x21, 0x26, 0x2F, 0x28, 0x3D, 0x3A, 0x33, 0x34] ∧
    crcRow 12 = [0x4E, 0x49, 0x40, 0x47, 0x52, 0x55, 0x5C, 0x5B, 0x76, 0x71, 0x78, 0x7F, 0x6A, 0x6D, 0x64, 0x63] ∧
    crcRow 13 = [0x3E, 0x39, 0x30, 0x37, 0x22, 0x25, 0x2C, 0x2B, 0x06, 0x01, 0x08, 0x0F, 0x1A, 0x1D, 0x14, 0x13] ∧
    crcRow 14 = [0xAE, 0xA9, 0xA0, 0xA7, 0xB2, 0xB5, 0xBC, 0xBB, 0x96, 0x91, 0x98, 0x9F, 0x8A, 0x8D, 0x84, 0x83] ∧
    crcRow 15 = [0xDE, 0xD9, 0xD0, 0xD7, 0xC2, 0xC5, 0xCC, 0xCB, 0xE6, 0xE1, 0xE8, 0xEF, 0xFA, 0xFD, 0xF4, 0xF3] := by
  decide

set_option maxRecDepth 8000 in
/-- V-C2, V-C3, V-C5, V-C10, V-C11. -/
theorem test_crc8 : crc8 [] = 0xF3 ∧ crc8 [0x00] = 0xD7 ∧ crc8 [0xF3] = 0x00 ∧ crc8 [0x28, 0x01, 0x01] = 0xD1 ∧
    crc8 scan = 0x00 ∧ crc8 [0x28, 0x01, 0x01, 0xD0] = 0x07 ∧ crc8 [0x28, 0x03, 0x01, 0xD1] = 0xD6 := by decide

/-- V-S1, V-S3, V-S5, V-S6, V-S8. -/
theorem test_sum8 : sum8 [] = 0x55 ∧ sum8 [0x01, 0x01, 0x02] = 0x59 ∧ sum8 [0x00, 0x00] = 0x55 ∧
    sum8 [0xFF, 0x02, 0xFF, 0xFF] = 0x54 ∧ sumCheck action = true ∧ sumCheck [0x01, 0x01, 0x02, 0x58] = false := by decide

/-! ### Frames (V-C5 to V-C9a, V-S3 to V-S6) and text (R88, R89) -/

set_option maxRecDepth 8000 in
theorem test_bus_frames : scanRequest 0 = scan ∧ scanRequest 5 = [0x28, 0x51, 0x01, 0xDD] ∧
    scanRequest 15 = [0x28, 0xF1, 0x01, 0xC5] ∧ scanResponse 0 = response ∧
    scanResponse 5 = [0x80, 0x62, 0x14, 0x28, 0xC0] ∧ scanResponse 15 = [0x80, 0x02, 0x14, 0x28, 0x05] ∧
    broadcastStatus 0 0x34 0x12 = [0x00, 0x02, 0x34, 0x12, 0x3C] ∧
    broadcastStatus 3 0x34 0x12 = [0x00, 0x32, 0x34, 0x12, 0xDD] ∧
    statusResponse 3 0x01 0x10 = [0x80, 0x42, 0x01, 0x10, 0x3D] ∧
    statusResponse 3 0x00 0x10 = [0x80, 0x42, 0x00, 0x10, 0x28] := by decide

theorem test_link_frames : actionCommand 0x02 = [0x55, 0x01, 0x01, 0x02, 0x59] ∧
    gatewayStatus 0x34 0x12 = [0x55, 0x00, 0x02, 0x34, 0x12, 0x9D] ∧
    linkStatusReport 0xFF [0xFF, 0xFF] = [0x55, 0xFF, 0x02, 0xFF, 0xFF, 0x54] ∧
    linkWire (linkFrame 0x00 []) = [0x55, 0x00, 0x00, 0x55] := by decide

set_option maxRecDepth 8000 in
theorem test_wellFormed_frames : busWellFormed scan = true ∧ busWellFormed largest = true ∧
    busWellFormed [0x28, 0x03, 0x01, 0xD1] = false ∧ linkWellFormed action = true ∧ linkWellFormed largestLink = true ∧
    linkExpected 15 = some 18 ∧ linkExpected 16 = none ∧ busExpected 0x52 = 5 := by decide

theorem test_text : asmText (.crcStep 0xF3 0x28) = "crc_step 0xF3, 0x28" ∧ wordText 0x10F328 = "0x10F328" ∧
    asmText (.rxByte .link 0x55) = "rx_byte link, 0x55" ∧ asmText .txBreakDone = "tx_break_done" := by decide

theorem test_pseudo : rxFrameBus [0x28, 0x01] = [.rxBreak .bus, .rxByte .bus 0x28, .rxByte .bus 0x01] ∧
    stgFrame [0x80, 0x12] = [.stgWrite 0 0x80, .stgWrite 1 0x12] ∧
    txComplete 2 = [.txBreakDone, .txByteDone, .txByteDone, .txIdle] ∧ ticks 2 = [.tick, .tick] ∧
    crc8Ops [0x28, 0x01, 0x01] = [.crcStep 0xF3 0x28, .crcStep 0x0F 0x01, .crcStep 0x2A 0x01] ∧
    sum8Ops [0x01, 0x01] = [.sumStep 0x55 0x01, .sumStep 0x56 0x01] := by decide

theorem test_refusal_codes : Refusal.code .rsvd = some 1 ∧ Refusal.code .index = some 2 ∧ Refusal.code .len = some 3 ∧
    Refusal.code .sel = some 4 ∧ Refusal.code .phase = some 5 := by decide

/-! ### One step of each operation -/

/-- V-K1. -/
theorem test_nop : nextIs (perform 0x000000 (waiting 2 response)) (fun t => t.r == 0 && t.dly == 2) = true := by decide

/-- V-C4, V-C4a. -/
theorem test_crcStep : nextIs (perform 0x10F328 State.reset) (fun t => t.r == 0x0F) = true ∧
    nextIs (perform 0x105A5A State.reset) (fun t => t.r == 0x00) = true := by decide

/-- V-S2. -/
theorem test_sumStep : nextIs (perform 0x205501 State.reset) (fun t => t.r == 0x56) = true ∧
    nextIs (perform 0x20FF01 State.reset) (fun t => t.r == 0x00) = true ∧
    nextIs (perform 0x20FFFF State.reset) (fun t => t.r == 0xFE) = true := by decide

/-- V-P1. -/
theorem test_rxByte_sync : nextIs (perform 0x380055 State.reset)
    (fun t => t.link == { Chan.reset with pst := .headerCollecting }) = true := by decide

set_option maxRecDepth 8000 in
/-- P2: the check byte of the scan request publishes it. -/
theorem test_rxByte_publishes : nextIs (perform 0x3000D1 (onChan .bus (parsing .payloadCollecting [0x28, 0x01, 0x01] 4)))
    (fun t => t.bus == { publishing Chan.reset scan with rxbuf := cells scan }) = true := by decide

/-- R164's example: a break in the middle of a BUS frame. -/
theorem test_rxBreak_bus : nextIs (perform 0x400000 (onChan .bus (parsing .payloadCollecting [0x28, 0x01] 4)))
    (fun t => t.bus.pst == .headerCollecting && t.bus.cnt == 0 && t.bus.exp == 0) = true := by decide

/-- V-P23. -/
theorem test_rxBreak_link : nextIs (perform 0x480000 (onChan .link (parsing .payloadCollecting [0x01, 0x01] 4)))
    (fun t => t.link.pst == .idle && t.link.cnt == 0 && !t.link.rdy) = true := by decide

/-- R166's example. -/
theorem test_frmRead : nextIs (perform 0x500000 (onChan .bus (publishing Chan.reset scan))) (fun t => t.r == 0x28) = true ∧
    nextIs (perform 0x500003 (onChan .bus (publishing Chan.reset scan))) (fun t => t.r == 0xD1) = true := by decide

/-- V-P21. -/
theorem test_frmRead_index : refusedFor (perform 0x500012 State.reset) .index = true := by decide

/-- R167's example. -/
theorem test_frmInfo : nextIs (perform 0x600000 (onChan .bus (publishing Chan.reset scan))) (fun t => t.r == 0x84) = true := by
  decide

/-- V-P19: the length stays. -/
theorem test_frmRelease : nextIs (perform 0x780000 (onChan .link (publishing Chan.reset action)))
    (fun t => t.link == { publishing Chan.reset action with rdy := false }) = true := by decide

/-- R191's example. -/
theorem test_stgWrite : nextIs (perform 0x800080 State.reset) (fun t => t.stg == [(0, 0x80)]) = true := by decide

/-- V-A1. -/
theorem test_txQueue : nextIs (perform 0x900005 { State.reset with stg := cells response })
    (fun t => t.r == 1 && t.ast == .pending && t.dly == 3 && t.pend && t.plen == 5 && t.pbuf == cells response) = true := by
  decide

/-- V-A2. -/
theorem test_txQueue_full : nextIs (perform 0x900005 (waiting 2 response))
    (fun t => t.r == 0 && t.dly == 2 && t.plen == 5) = true := by decide

/-- V-A3's second tick. -/
theorem test_tick : nextIs (perform 0xA00000 (waiting 2 response)) (fun t => t.ast == .pending && t.dly == 1 && !t.de) = true := by
  decide

/-- V-A4. -/
theorem test_tick_starts : nextIs (perform 0xA00000 (waiting 1 response)) (fun t => t.ast == .txBreak && t.dly == 0 &&
    !t.pend && t.plen == 0 && t.txlen == 5 && t.txidx == 0 && t.txbuf == cells response && t.de && !t.rxEn && t.brk) = true := by
  decide

/-- V-A5. -/
theorem test_txBreakDone : nextIs (perform 0xB00000 (sending .txBreak response 0))
    (fun t => t.ast == .txShift && t.txValid && t.txData == 0x80) = true := by decide

/-- V-A6's last byte. -/
theorem test_txByteDone : nextIs (perform 0xC00000 (sending .txShift response 4))
    (fun t => t.ast == .txDrain && t.txidx == 5 && !t.txValid && t.txData == 0) = true := by decide

/-- V-A7. -/
theorem test_txIdle : nextIs (perform 0xD00000 (sending .txDrain response 5))
    (fun t => t.ast == .listen && !t.de && t.rxEn && t.txlen == 5 && t.txidx == 5) = true := by decide

/-- V-A11. -/
theorem test_txIdle_pending : nextIs (perform 0xD00000 (queued (sending .txDrain response 5) response))
    (fun t => t.ast == .pending && t.dly == 3) = true := by decide

/-- V-K2, V-A1, V-A4, V-A5, V-A6. -/
theorem test_statRead : nextIs (perform 0xE00000 State.reset) (fun t => t.r == 0x10) = true ∧
    nextIs (perform 0xE00000 (waiting 3 response)) (fun t => t.r == 0x19) = true ∧
    nextIs (perform 0xE00000 (sending .txBreak response 0)) (fun t => t.r == 0x62) = true ∧
    nextIs (perform 0xE00000 (sending .txShift response 0)) (fun t => t.r == 0xA3) = true ∧
    nextIs (perform 0xE00000 (sending .txDrain response 5)) (fun t => t.r == 0x24) = true := by decide

/-- V-P10, and P3's TX_DATA. -/
theorem test_statRead_views :
    nextIs (perform 0xE00005 (onChan .bus (parsing .payloadCollecting [0x28, 0x03, 0x01, 0xD1] 6))) (fun t => t.r == 0x12) = true ∧
    nextIs (perform 0xE00006 (onChan .bus (parsing .payloadCollecting [0x28, 0x03, 0x01, 0xD1] 6))) (fun t => t.r == 0x06) = true ∧
    nextIs (perform 0xE00007 (sending .txShift response 0)) (fun t => t.r == 0x80) = true := by decide

/-- V-A17. -/
theorem test_reset : nextIs (perform 0xF00000 (sending .txShift response 1))
    (fun t => t.ast == .listen && !t.de && t.rxEn && !t.brk && t.txbuf == []) = true := by decide

/-- V-E1, V-A12, V-A13, V-K4, V-A9, V-E7: every refusal reason, and `REF_RSVD` first. -/
theorem test_refusals : refusedFor (perform 0x010000 State.reset) .rsvd = true ∧
    refusedFor (perform 0x900000 State.reset) .len = true ∧ refusedFor (perform 0x900013 State.reset) .len = true ∧
    refusedFor (perform 0x801200 State.reset) .index = true ∧ refusedFor (perform 0xE80000 State.reset) .sel = true ∧
    refusedFor (perform 0xE80007 State.reset) .sel = true ∧ refusedFor (perform 0xE00008 State.reset) .sel = true ∧
    refusedFor (perform 0xB00000 State.reset) .phase = true ∧ refusedFor (perform 0xC00000 State.reset) .phase = true ∧
    refusedFor (perform 0xD00000 State.reset) .phase = true ∧ refusedFor (perform 0xB10000 State.reset) .rsvd = true := by
  decide

/-- The next step runs the word that stands where the step takes it. -/
theorem test_withFetchWord : nextIs (step (State.reset.withFetchWord 24 0xE00000)) (fun t => t.r == 0x10 && t.cmds == []) = true := by
  decide

/-! ### Witnesses: encoding and steps -/

theorem witness_ReservedWordsAreRefused : (State.reset.issueNext 0x010000).cmds = 0x010000 :: [] ∧ zField 0x010000 ≠ 0 ∧
    (chField 0x180000 = 1 ∧ (opField 0x180000).toNat ∉ [0x3, 0x4, 0x5, 0x6, 0x7, 0xE]) ∧
    (aField 0x300155 ≠ 0 ∧ (opField 0x300155).toNat ∉ [0x1, 0x2, 0x8]) ∧
    (bField 0x000001 ≠ 0 ∧ (opField 0x000001).toNat ∉ [0x1, 0x2, 0x3, 0x5, 0x8, 0x9, 0xE]) := by decide

theorem witness_RefusalsOfPerformedOperations : refusedFor (exec (.frmRead .link 18) State.reset) .index = true ∧
    refusedFor (exec (.stgWrite 18 0) State.reset) .index = true ∧ refusedFor (exec (.txQueue 0) State.reset) .len = true ∧
    refusedFor (exec (.txQueue 19) State.reset) .len = true ∧ refusedFor (exec (.statRead .bus 8) State.reset) .sel = true ∧
    refusedFor (exec (.statRead .link 4) State.reset) .sel = true ∧ refusedFor (exec .txBreakDone State.reset) .phase = true ∧
    refusedFor (exec .txByteDone State.reset) .phase = true ∧ refusedFor (exec .txIdle State.reset) .phase = true := by
  decide

theorem witness_StepPerformsTheIssuedWord :
    (State.reset.issueNext 0xA00000).cmds = 0xA00000 :: [] ∧ decode 0xA00000 = .ok .tick := ⟨rfl, rfl⟩

theorem witness_StepWithNothingIssuedChangesNothing : State.reset.cmds = [] := rfl

/-! ### Witnesses: checksums -/

set_option maxRecDepth 8000 in
theorem witness_CrcDetectsEverySingleBitError : 3 < scan.length ∧ 7 < 8 ∧ crcCheck scan = true ∧
    [0x01, 0x02].length = ([0x03, 0x04] : List Byte).length := by decide

theorem witness_SumDetectsEverySingleBitError : 3 < action.length ∧ 7 < 8 ∧ sumCheck action = true := by decide

/-! ### Witnesses: parser -/

theorem witness_LinkIdleWaitsForSync : State.reset.link.pst = .idle ∧ (0x54 : Byte) ≠ 0x55 := by decide

theorem witness_LinkHeaderByte_category : let s := onChan .link (parsing .headerCollecting [] 0)
    s.link.pst = .headerCollecting ∧ s.link.cnt.toNat < 18 ∧ s.link.cnt.toNat + 1 ≠ 2 := by decide

theorem witness_LinkHeaderByte_length : let s := onChan .link (parsing .headerCollecting [0x01] 0)
    s.link.pst = .headerCollecting ∧ s.link.cnt.toNat < 18 ∧ s.link.cnt.toNat + 1 = 2 ∧ 16 ≤ (0x10 : Byte).toNat ∧
    (0x0F : Byte).toNat < 16 := by decide

theorem witness_BusHeaderByte_address : let s := onChan .bus (parsing .headerCollecting [] 0)
    s.rxEn = true ∧ s.bus.pst = .headerCollecting ∧ s.bus.cnt.toNat < 18 ∧ s.bus.cnt.toNat + 1 ≠ 2 := by decide

theorem witness_BusHeaderByte_length : let s := onChan .bus (parsing .headerCollecting [0x28] 0)
    s.rxEn = true ∧ s.bus.pst = .headerCollecting ∧ s.bus.cnt.toNat < 18 ∧ s.bus.cnt.toNat + 1 = 2 := by decide

theorem witness_PayloadByteIsCollected : ∀ c, let s := onChan c (parsing .payloadCollecting (largest.take 16) 18)
    s.listening c = true ∧ (s.chan c).pst = .payloadCollecting ∧ (s.chan c).cnt.toNat < 18 ∧
    (s.chan c).cnt.toNat + 1 ≠ (s.chan c).exp.toNat := by
  intro c; cases c <;> decide

/-- The shortest frames, valid: published and, with a frame not released, dropped. -/
theorem witness_CompletedFrameIsCheckedAndPublished_valid : let k := parsing .payloadCollecting [0x00, 0x00] 3
    let s := onChan .link k
    let u := onChan .link (publishing k action)
    (∀ i < [0x00, 0x00].length, s.byteAt (.rxbuf .link) i = ([0x00, 0x00] : List Byte)[i]?) ∧
    s.listening .link = true ∧ s.link.pst = .payloadCollecting ∧ 2 = s.link.cnt.toNat ∧
    s.link.cnt.toNat + 1 = s.link.exp.toNat ∧ frameCheck .link ([0x00, 0x00] ++ [0x55]) = true ∧ s.link.rdy = false ∧
    (∀ i < [0x00, 0x00].length, u.byteAt (.rxbuf .link) i = ([0x00, 0x00] : List Byte)[i]?) ∧ u.link.rdy = true ∧
    u.link.pst = .payloadCollecting ∧ u.link.cnt.toNat + 1 = u.link.exp.toNat := by decide

set_option maxRecDepth 8000 in
/-- The longest BUS frame, with its check byte and with another one. -/
theorem witness_CompletedFrameIsCheckedAndPublished_bus : let f := largest.take 17
    let s := onChan .bus (parsing .payloadCollecting f 18)
    (∀ i < f.length, s.byteAt (.rxbuf .bus) i = f[i]?) ∧ s.listening .bus = true ∧ s.bus.pst = .payloadCollecting ∧
    f.length = s.bus.cnt.toNat ∧ s.bus.cnt.toNat < 18 ∧ s.bus.cnt.toNat + 1 = s.bus.exp.toNat ∧
    frameCheck .bus (f ++ [0xF6]) = true ∧ frameCheck .bus (f ++ [0xF7]) = false ∧ s.bus.rdy = false := by decide

theorem witness_BusReceiverIsOffWhileTransmitting :
    (sending .txBreak response 0).ast = .txBreak ∧ (sending .txShift response 0).ast = .txShift ∧
    (sending .txDrain response 5).ast = .txDrain := by decide

theorem witness_BusIdleIgnoresBytes : State.reset.rxEn = true ∧ State.reset.bus.pst = .idle := by decide

/-- A state no run reaches: the second clause rules it out, with the invariant of `witness_NoStepFaults`. -/
theorem witness_OverflowResetsTheParser : let s := onChan .bus { Chan.reset with pst := .headerCollecting, cnt := 18 }
    s.listening .bus = true ∧ s.bus.pst ≠ .idle ∧ 18 ≤ s.bus.cnt.toNat := by decide

theorem witness_LineBreakRestartsTheParser : (waiting 2 response).rxEn = true := by decide

theorem witness_FrmReadGivesThePublishedByte : (17 : Byte).toNat ≤ 17 ∧
    (onChan .bus (publishing Chan.reset largest)).byteAt (.frame .bus) (17 : Byte).toNat = some 0xF6 := by decide

set_option maxRecDepth 8000 in
theorem witness_BusResynchronizes : busWellFormed largest = true ∧ busWellFormed [0x28, 0x00, crc8 [0x28, 0x00]] = true ∧
    State.reset.rxEn = true ∧ State.reset.bus.rdy = false ∧ (onChan .bus (publishing Chan.reset scan)).rxEn = true ∧
    (onChan .bus (publishing Chan.reset scan)).bus.rdy = true := by decide

theorem witness_LinkResynchronizesFromIdle : linkWellFormed largestLink = true ∧ linkWellFormed [0x00, 0x00, 0x55] = true ∧
    State.reset.link.pst = .idle ∧ State.reset.link.rdy = false ∧
    (onChan .link (publishing Chan.reset action)).link.pst = .idle ∧
    (onChan .link (publishing Chan.reset action)).link.rdy = true := by decide

theorem witness_PublishedFrameStaysUntilReleased : let s := onChan .link (publishing Chan.reset action)
    (s.chan .link).rdy = true ∧ nextIs (exec (.frmRelease .bus) s) (fun _ => true) = true ∧
    Instr.frmRelease .bus ≠ .frmRelease .link ∧ Instr.frmRelease .bus ≠ .reset := by decide

/-- The two read clauses: one LINK operation from two states with the same LINK, and one of the arbiter from two states that
differ in LINK only. -/
theorem witness_ChannelsDoNotInterfere_reads : let s := onChan .link (publishing Chan.reset action)
    let u := (waiting 2 response).setChan .link s.link
    s.link = u.link ∧ s.draws = u.draws ∧ operatedChannel (.frmInfo .link) = some .link ∧
    nextIs (exec (.frmInfo .link) s) (fun _ => true) = true ∧ nextIs (exec (.frmInfo .link) u) (fun _ => true) = true ∧
    operatedChannel .tick ≠ some .link ∧ nextIs (exec .tick u) (fun _ => true) = true ∧
    nextIs (exec .tick { u with link := Chan.reset }) (fun _ => true) = true := by decide

/-- The two write clauses: FRM_RELEASE on BUS and RX_BREAK on LINK. -/
theorem witness_ChannelsDoNotInterfere_writes : let s := onChan .link (publishing Chan.reset action)
    nextIs (exec (.frmRelease .bus) s) (fun _ => true) = true ∧ operatedChannel (.frmRelease .bus) ≠ some .link ∧
    Instr.frmRelease .bus ≠ .reset ∧ nextIs (exec (.rxBreak .link) s) (fun _ => true) = true ∧
    operatedChannel (.rxBreak .link) = some .link := by decide

/-! ### Witnesses: arbiter -/

/-- Table rows 1 and 9: LISTEN. -/
theorem witness_ArbiterFollowsItsTable_listen : let s : State := { State.reset with stg := cells response }
    s.Inv ∧ s.ast = .listen ∧ nextIs (exec (.txQueue 5) s) (fun _ => true) = true ∧
    nextIs (exec .reset s) (fun _ => true) = true :=
  ⟨⟨by decide, by decide, by decide, by decide, by decide⟩, rfl, rfl, rfl⟩

/-- Table rows 2 and 3: PENDING, with two ticks left and with one. -/
theorem witness_ArbiterFollowsItsTable_pending :
    ((waiting 2 response).Inv ∧ (waiting 2 response).ast = .pending ∧ 0 < (waiting 2 response).dly.toNat - 1 ∧
      nextIs (exec .tick (waiting 2 response)) (fun _ => true) = true) ∧
    (waiting 1 response).Inv ∧ (waiting 1 response).dly.toNat - 1 = 0 ∧
      nextIs (exec .tick (waiting 1 response)) (fun _ => true) = true :=
  ⟨⟨⟨by decide, by decide, by decide, by decide, by decide⟩, rfl, by decide, rfl⟩,
    ⟨by decide, by decide, by decide, by decide, by decide⟩, rfl, rfl⟩

/-- Table rows 4 to 6: TX_BREAK, and TX_SHIFT before the last two bytes. -/
theorem witness_ArbiterFollowsItsTable_transmitting :
    ((sending .txBreak response 0).Inv ∧ nextIs (exec .txBreakDone (sending .txBreak response 0)) (fun _ => true) = true) ∧
    ((sending .txShift response 3).Inv ∧ 3 + 1 < (sending .txShift response 3).txlen.toNat ∧
      nextIs (exec .txByteDone (sending .txShift response 3)) (fun _ => true) = true) ∧
    (sending .txShift response 4).Inv ∧ 4 + 1 = (sending .txShift response 4).txlen.toNat ∧
      nextIs (exec .txByteDone (sending .txShift response 4)) (fun _ => true) = true :=
  ⟨⟨⟨by decide, by decide, by decide, by decide, by decide⟩, rfl⟩,
    ⟨⟨by decide, by decide, by decide, by decide, by decide⟩, by decide, rfl⟩,
    ⟨by decide, by decide, by decide, by decide, by decide⟩, rfl, rfl⟩

/-- Table rows 7 and 8: TX_DRAIN, with nothing pending and with a response. -/
theorem witness_ArbiterFollowsItsTable_drain : let s := sending .txDrain response 5
    (s.Inv ∧ s.ast = .txDrain ∧ s.pend = false ∧ nextIs (exec .txIdle s) (fun _ => true) = true) ∧
    (queued s response).Inv ∧ (queued s response).pend = true ∧
      nextIs (exec .txIdle (queued s response)) (fun _ => true) = true :=
  ⟨⟨⟨by decide, by decide, by decide, by decide, by decide⟩, rfl, rfl, rfl⟩,
    ⟨by decide, by decide, by decide, by decide, by decide⟩, rfl, rfl⟩

theorem witness_StgWriteWritesOneByte : (17 : Byte).toNat ≤ 17 := by decide

theorem witness_TxQueueFillsTheFreeSlot : 1 ≤ (1 : Byte).toNat ∧ (18 : Byte).toNat ≤ 18 ∧ State.reset.pend = false ∧
    State.reset.ast = .listen ∧ (sending .txBreak response 0).pend = false ∧ (sending .txBreak response 0).ast ≠ .listen := by
  decide

theorem witness_TxQueueKeepsThePendingResponse : 1 ≤ (18 : Byte).toNat ∧ (18 : Byte).toNat ≤ 18 ∧
    (waiting 2 response).pend = true := by decide

theorem witness_TickOutsidePendingHasNoEffect : State.reset.ast ≠ .pending := by decide

theorem witness_TickCountsDown : (waiting 2 response).ast = .pending ∧ 2 ≤ (waiting 2 response).dly.toNat := by decide

/-- The last clause's state is one no run reaches. -/
theorem witness_TickStartsTheTransmission : (waiting 1 response).ast = .pending ∧ (waiting 1 response).dly = 1 ∧
    (waiting 1 response).pend = true ∧ (waiting 1 (largest)).plen.toNat = 18 ∧
    ({ State.reset with ast := .pending, dly := 1 } : State).pend = false := by decide

theorem witness_TxBreakDoneOffersTheFirstByte : (sending .txBreak response 0).ast = .txBreak ∧
    (sending .txBreak response 0).byteAt .txbuf 0 = some 0x80 := by decide

theorem witness_TxByteDoneOffersTheNextByte : (sending .txShift response 3).ast = .txShift ∧
    (sending .txShift response 3).txidx.toNat < (sending .txShift response 3).txlen.toNat ∧
    (sending .txShift response 3).txidx.toNat + 1 ≠ (sending .txShift response 3).txlen.toNat ∧
    (sending .txShift response 3).byteAt .txbuf 4 = some 0xA7 ∧
    (sending .txShift response 4).txidx.toNat + 1 = (sending .txShift response 4).txlen.toNat := by decide

theorem witness_TxIdleEndsTheTurnaround : (sending .txDrain response 5).ast = .txDrain ∧
    (sending .txDrain response 5).pend = false ∧ (queued (sending .txDrain response 5) response).ast = .txDrain ∧
    (queued (sending .txDrain response 5) response).pend = true := by decide

/-- A run of the third tick, a byte received between the ticks, and one of two ticks. -/
theorem witness_ResponseStartsAtTheDelaysLastTick : let s : State := { State.reset with stg := cells response }
    let ops : List Instr := [.tick, .tick, .rxBreak .bus]
    s.Inv ∧ s.ast = .listen ∧ Instr.reset ∉ ops ++ [Instr.tick] ∧ ops.count Instr.tick < s.cfg.respDelay.toNat ∧
    (ops ++ [Instr.tick]).count Instr.tick = s.cfg.respDelay.toNat ∧ nextIs (runOps (.txQueue 5 :: ops) s) (fun _ => true) = true ∧
    nextIs (runOps (.txQueue 5 :: (ops ++ [Instr.tick])) s) (fun _ => true) = true :=
  ⟨⟨by decide, by decide, by decide, by decide, by decide⟩, rfl, by decide, by decide, by decide, by decide, by decide⟩

theorem witness_NextTurnaroundWaitsTheFullDelay : let s := queued (sending .txDrain response 5) response
    let ops : List Instr := [.tick, .tick]
    s.Inv ∧ s.ast = .txDrain ∧ s.pend = true ∧ Instr.reset ∉ ops ++ [Instr.tick] ∧ ops.count Instr.tick < s.cfg.respDelay.toNat ∧
    (ops ++ [Instr.tick]).count Instr.tick = s.cfg.respDelay.toNat ∧ nextIs (runOps (.txIdle :: ops) s) (fun _ => true) = true ∧
    nextIs (runOps (.txIdle :: (ops ++ [Instr.tick])) s) (fun _ => true) = true :=
  ⟨⟨by decide, by decide, by decide, by decide, by decide⟩, rfl, rfl, by decide, by decide, by decide, by decide, by decide⟩

theorem witness_QueuedBytesAreTakenInOrder : (sending .txBreak response 0).ast = .txBreak ∧
    response.length = (sending .txBreak response 0).txlen.toNat ∧ 1 ≤ response.length ∧
    (∀ i < response.length, (sending .txBreak response 0).byteAt .txbuf i = response[i]?) := by decide

theorem witness_BusParserIsIdleWhileTransmitting : (waiting 1 response).Inv ∧ (waiting 1 response).de = false ∧
    nextIs (exec .tick (waiting 1 response)) (fun t => t.de) = true ∧
    nextIs (exec (.rxByte .bus 1) (sending .txShift response 0)) (fun t => t.de) = true :=
  ⟨⟨by decide, by decide, by decide, by decide, by decide⟩, rfl, rfl, rfl⟩

theorem witness_TurnaroundKeepsThePinOrder : (waiting 1 response).ast = .pending ∧
    nextIs (exec .tick (waiting 1 response)) (fun t => t.ast == .txBreak) = true ∧
    nextIs (exec .txIdle (sending .txDrain response 5)) (fun _ => true) = true := by decide

/-! ### Witnesses: control, flags, invariants -/

theorem witness_StatReadGivesItsViews : let s := sending .txShift response 4
    let b := onChan .bus (parsing .payloadCollecting [0x28, 0x03] 6)
    (0xA3 : Byte).extractLsb' 0 3 = s.ast.code ∧ (0xA3 : Byte).getLsbD 3 = s.pend ∧ (0xA3 : Byte).getLsbD 4 = s.rxEn ∧
    (0xA3 : Byte).getLsbD 5 = s.de ∧ (0xA3 : Byte).getLsbD 6 = s.brk ∧ (0xA3 : Byte).getLsbD 7 = s.txValid ∧
    (4 : Byte).toNat = s.txidx.toNat ∧ (5 : Byte).toNat = s.txlen.toNat ∧ (0 : Byte).toNat = s.plen.toNat ∧
    (s.txValid = true → s.txidx.toNat ≤ 17) ∧ 0xA7 = s.txData ∧
    (0x0A : Byte).extractLsb' 0 2 = b.bus.pst.code ∧ (0x0A : Byte).extractLsb' 2 5 = b.bus.cnt ∧
    (0x0A : Byte).getLsbD 7 = false ∧ (6 : Byte).toNat = b.bus.exp.toNat ∧
    nextIs (exec (.statRead .link 6) State.reset) (fun _ => true) = true := by decide

theorem witness_ResetValuesOfEveryElement : nextIs (exec .reset (sending .txShift response 1)) (fun _ => true) = true := by
  decide

theorem witness_ResetAlwaysCompletes : nextIs (exec .reset State.reset) (fun t => nextIs (exec .reset t) (fun _ => true)) = true := by
  decide

theorem witness_FlagsAreWrittenOnlyWhereListed :
    State.reset.pend = false ∧ nextIs (exec (.txQueue 1) State.reset) (fun t => t.pend) = true ∧
    (waiting 1 response).pend = true ∧ nextIs (exec .tick (waiting 1 response)) (fun t => !t.pend) = true ∧
    (onChan .link (parsing .payloadCollecting [0x00, 0x00] 3)).link.rdy = false ∧
    nextIs (exec (.rxByte .link 0x55) (onChan .link (parsing .payloadCollecting [0x00, 0x00] 3))) (fun t => t.link.rdy) = true ∧
    (onChan .bus (publishing Chan.reset scan)).bus.rdy = true ∧
    nextIs (exec (.frmRelease .bus) (onChan .bus (publishing Chan.reset scan))) (fun t => !t.bus.rdy) = true := by decide

theorem witness_EveryStepKeepsTheInvariant : ((waiting 1 response).issueNext 0xA00000).Inv ∧
    nextIs (perform 0xA00000 (waiting 1 response)) (fun _ => true) = true :=
  ⟨⟨by decide, by decide, by decide, by decide, by decide⟩, by decide⟩

theorem witness_EveryStepKeepsTheArraysForm : Memory.wf ((waiting 1 response).issueNext 0xA00000) = true ∧
    nextIs (perform 0xA00000 (waiting 1 response)) (fun _ => true) = true := by decide

theorem witness_EveryStepKeepsTheParameters : nextIs (perform 0x000000 State.reset) (fun _ => true) = true := by decide

theorem witness_NoStepFaults : (waiting 1 response).Inv := ⟨by decide, by decide, by decide, by decide, by decide⟩

theorem witness_WellFormedOperationsComplete : (sending .txShift response 4).Inv ∧ Instr.txByteDone.wellFormed = true ∧
    (sending .txShift response 4).ast = .txShift ∧ Instr.txByteDone ≠ .txBreakDone ∧ Instr.txByteDone ≠ .txIdle :=
  ⟨⟨by decide, by decide, by decide, by decide, by decide⟩, rfl, rfl, by decide, by decide⟩

end Sys2Proof.Tests
end

section
/-! SUPPORT. Steps and sequences (00_scope.md R10, 20_memory.md R69): no operation reads the issued words, so a run of
steps is the sequence of the operations its words stand for. -/

namespace Sys2Proof

@[simp] theorem channelBit_bus : channelBit .bus = 0 := rfl

/-- An operation is read back from its own word (30_encoding.md R87). -/
@[simp] theorem decode_encode (i : Instr) : decode (encode i) = .ok i := by
  rw [decode_eq_ok_iff]
  cases i <;> simp [encode, fieldUse, operation]

end Sys2Proof

namespace Sys2Proof.Machine

open Sys2Proof

/-! ### Sequencing of outcomes -/

/-- What follows an outcome: `f` from a next state; a fault or a refusal stops (R11, 60_exceptions.md R296). -/
def onNext (o : Host.Outcome State Fault Refusal) (f : State → Host.Outcome State Fault Refusal) :
    Host.Outcome State Fault Refusal :=
  match o with
  | .next s => f s
  | .fault why => .fault why
  | .refused why => .refused why

@[simp] theorem onNext_next (s : State) (f : State → Host.Outcome State Fault Refusal) :
    onNext (.next s) f = f s := rfl

@[simp] theorem onNext_fault (why : Fault) (f : State → Host.Outcome State Fault Refusal) :
    onNext (.fault why) f = .fault why := rfl

@[simp] theorem onNext_refused (why : Refusal) (f : State → Host.Outcome State Fault Refusal) :
    onNext (.refused why) f = .refused why := rfl

@[simp] theorem onNext_ite (p : Prop) [Decidable p] (a b : Host.Outcome State Fault Refusal)
    (f : State → Host.Outcome State Fault Refusal) :
    onNext (if p then a else b) f = if p then onNext a f else onNext b f := by
  split <;> rfl

theorem onNext_assoc (o : Host.Outcome State Fault Refusal) (f g : State → Host.Outcome State Fault Refusal) :
    onNext (onNext o f) g = onNext o fun s => onNext (f s) g := by
  cases o <;> rfl

theorem runOps_cons (i : Instr) (rest : List Instr) (s : State) :
    runOps (i :: rest) s = onNext (exec i s) (runOps rest) := rfl

/-- `k` steps of the core, its run read at the machine's own types. -/
def runSteps (k : Nat) (s : State) : Host.Outcome State Fault Refusal := Host.Core.run Sys2Proof.core k s

@[simp] theorem runSteps_zero (s : State) : runSteps 0 s = .next s := rfl

theorem core_step_eq : Sys2Proof.core.step = step := rfl

theorem runSteps_succ (k : Nat) (s : State) : runSteps (k + 1) s = onNext (step s) (runSteps k) := by
  cases hstep : step s <;> (simp only [runSteps, Host.Core.run, core_step_eq, hstep]; rfl)

/-! ### A step, by the queue -/

theorem step_of_cmds_nil {s : State} (hq : s.cmds = []) : step s = .next s := by
  obtain ⟨-, hstep⟩ | ⟨w, rest, hcons, -⟩ := step_cases s
  · exact hstep
  · simp [hq] at hcons

theorem step_of_cmds_cons {s : State} {w : CmdWord} {rest : List CmdWord} {i : Instr} (hq : s.cmds = w :: rest)
    (hd : decode w = .ok i) : step s = exec i { s with cmds := rest } := by
  obtain ⟨hnil, -⟩ | ⟨w', rest', hcons, hword⟩ := step_cases s
  · simp [hq] at hnil
  · obtain ⟨rfl, rfl⟩ : w = w' ∧ rest = rest' := by simpa [hq] using hcons
    obtain ⟨e, herr, -⟩ | ⟨j, hok, hstep⟩ := hword
    · simp [hd] at herr
    · obtain rfl : i = j := by simpa [hd] using hok
      exact hstep

/-! ### The queue replaced -/

/-- `s` with `q` as the words issued and not yet performed (log 1). -/
def State.withCommands (s : State) (q : List CmdWord) : State := { s with cmds := q }

section Queue

variable (s : State) (q : List CmdWord)

@[simp] theorem State.withCommands_chan (c : Channel) : (s.withCommands q).chan c = s.chan c := by
  cases c <;> rfl

@[simp] theorem State.withCommands_setChan (c : Channel) (k : Chan) :
    (s.withCommands q).setChan c k = (s.setChan c k).withCommands q := by
  cases c <;> rfl

@[simp] theorem State.withCommands_countDown : (s.withCommands q).countDown = s.countDown.withCommands q := rfl

@[simp] theorem State.withCommands_listening (c : Channel) : (s.withCommands q).listening c = s.listening c := by
  cases c <;> rfl

@[simp] theorem State.withCommands_array (sp : Space) : (s.withCommands q).array sp = s.array sp := by
  cases sp with
  | rxbuf c => cases c <;> rfl
  | frame c => cases c <;> rfl
  | _ => rfl

@[simp] theorem State.withCommands_bufRead (sp : Space) (i : Nat) :
    (s.withCommands q).bufRead sp i = s.bufRead sp i := by
  simp only [State.bufRead, State.withCommands_array]
  rfl

@[simp] theorem State.withCommands_view (v : View) : (s.withCommands q).view v = s.view v := by
  cases v with
  | parser c => simp [State.view]
  | expected c => simp [State.view]
  | _ => rfl

@[simp] theorem State.withCommands_viewInBounds (v : View) :
    (s.withCommands q).viewInBounds v = s.viewInBounds v := by
  cases v <;> rfl

/-! ### No operation reads or writes the queue

The conditions of each meaning do not read the queue: with `onNext` taken inside the meaning's branches, both sides have
the same branches by definition. -/

theorem done_withCommands (v : Byte) :
    done (s.withCommands q) v = onNext (done s v) fun t => .next (t.withCommands q) := rfl

theorem execRxByte_withCommands (c : Channel) (b : Byte) :
    execRxByte c b (s.withCommands q) = onNext (execRxByte c b s) fun t => .next (t.withCommands q) := by
  simp only [execRxByte, State.withCommands_listening, State.withCommands_chan, State.withCommands_setChan, onNext_ite]
  rfl

theorem execRxBreak_withCommands (c : Channel) :
    execRxBreak c (s.withCommands q) = onNext (execRxBreak c s) fun t => .next (t.withCommands q) := by
  simp only [execRxBreak, State.withCommands_listening, State.withCommands_chan, State.withCommands_setChan, onNext_ite]
  rfl

theorem execFrmRead_withCommands (c : Channel) (idx : Byte) :
    execFrmRead c idx (s.withCommands q) = onNext (execFrmRead c idx s) fun t => .next (t.withCommands q) := by
  simp only [execFrmRead, State.withCommands_bufRead]
  cases indexOperand idx <;> rfl

theorem execFrmInfo_withCommands (c : Channel) :
    execFrmInfo c (s.withCommands q) = onNext (execFrmInfo c s) fun t => .next (t.withCommands q) := by
  simp only [execFrmInfo, State.withCommands_chan, done_withCommands]

theorem execFrmRelease_withCommands (c : Channel) :
    execFrmRelease c (s.withCommands q) = onNext (execFrmRelease c s) fun t => .next (t.withCommands q) := by
  simp only [execFrmRelease, State.withCommands_chan, State.withCommands_setChan, done_withCommands]

theorem execStgWrite_withCommands (idx b : Byte) :
    execStgWrite idx b (s.withCommands q) = onNext (execStgWrite idx b s) fun t => .next (t.withCommands q) := by
  unfold execStgWrite
  cases indexOperand idx <;> rfl

theorem execTxQueue_withCommands (len : Byte) :
    execTxQueue len (s.withCommands q) = onNext (execTxQueue len s) fun t => .next (t.withCommands q) := by
  unfold execTxQueue
  cases lengthOperand len with
  | none => rfl
  | some n => simp only [onNext_ite]; rfl

theorem startTx_withCommands :
    startTx (s.withCommands q) = onNext (startTx s) fun t => .next (t.withCommands q) := by
  simp only [startTx, onNext_ite]
  rfl

theorem execTick_withCommands :
    execTick (s.withCommands q) = onNext (execTick s) fun t => .next (t.withCommands q) := by
  simp only [execTick, State.withCommands_countDown, startTx_withCommands, onNext_ite]
  rfl

theorem execTxBreakDone_withCommands :
    execTxBreakDone (s.withCommands q) = onNext (execTxBreakDone s) fun t => .next (t.withCommands q) := by
  simp only [execTxBreakDone, onNext_ite]
  rfl

theorem execTxByteDone_withCommands :
    execTxByteDone (s.withCommands q) = onNext (execTxByteDone s) fun t => .next (t.withCommands q) := by
  simp only [execTxByteDone, onNext_ite]
  rfl

theorem execTxIdle_withCommands :
    execTxIdle (s.withCommands q) = onNext (execTxIdle s) fun t => .next (t.withCommands q) := by
  simp only [execTxIdle, onNext_ite]
  rfl

theorem execStatRead_withCommands (c : Channel) (sel : Byte) :
    execStatRead c sel (s.withCommands q) = onNext (execStatRead c sel s) fun t => .next (t.withCommands q) := by
  simp only [execStatRead, State.withCommands_view, State.withCommands_viewInBounds]
  cases selectorOperand c sel with
  | none => rfl
  | some v => simp only [onNext_ite]; rfl

/-- What an operation does is the same whatever words wait behind it, and they still wait after it (R69, log 1). -/
theorem exec_withCommands (i : Instr) :
    exec i (s.withCommands q) = onNext (exec i s) fun t => .next (t.withCommands q) := by
  cases i with
  | nop => exact done_withCommands s q _
  | crcStep acc data => exact done_withCommands s q _
  | sumStep acc data => exact done_withCommands s q _
  | rxByte c data => exact execRxByte_withCommands s q c data
  | rxBreak c => exact execRxBreak_withCommands s q c
  | frmRead c idx => exact execFrmRead_withCommands s q c idx
  | frmInfo c => exact execFrmInfo_withCommands s q c
  | frmRelease c => exact execFrmRelease_withCommands s q c
  | stgWrite idx data => exact execStgWrite_withCommands s q idx data
  | txQueue len => exact execTxQueue_withCommands s q len
  | tick => exact execTick_withCommands s q
  | txBreakDone => exact execTxBreakDone_withCommands s q
  | txByteDone => exact execTxByteDone_withCommands s q
  | txIdle => exact execTxIdle_withCommands s q
  | statRead c sel => exact execStatRead_withCommands s q c sel
  | reset => exact done_withCommands s.toReset q 0

/-- An operation before waiting words `q`, and then `f`: `f` finds `q` waiting. -/
theorem onNext_exec_withCommands (i : Instr) (f : State → Host.Outcome State Fault Refusal) :
    onNext (exec i (s.withCommands q)) f = onNext (exec i s) fun t => f (t.withCommands q) := by
  rw [exec_withCommands, onNext_assoc]
  rfl

/-- A step with an operation's word first in the queue performs the operation before the words behind it. -/
theorem step_withCommands_encode (i : Instr) :
    step (s.withCommands (encode i :: q)) = exec i (s.withCommands q) :=
  step_of_cmds_cons rfl (decode_encode i)

end Queue

/-! ### As many steps as words -/

/-- By induction on the operations: the first step performs the first of them, and it leaves the other words waiting. -/
theorem runSteps_encoded_words (is : List Instr) (rest : List CmdWord) (s : State) :
    runSteps is.length (s.withCommands (is.map encode ++ rest)) =
      runOps is (s.withCommands rest) := by
  induction is generalizing s with
  | nil => exact runSteps_zero _
  | cons i is ih =>
    have hstep : step (s.withCommands ((i :: is).map encode ++ rest)) =
        exec i (s.withCommands (is.map encode ++ rest)) := step_withCommands_encode s _ i
    calc runSteps (is.length + 1) (s.withCommands ((i :: is).map encode ++ rest))
      _ = onNext (exec i s) fun t =>
            runSteps is.length (t.withCommands (is.map encode ++ rest)) := by
          rw [runSteps_succ, hstep, onNext_exec_withCommands]
      _ = onNext (exec i s) fun t => runOps is (t.withCommands rest) := by simp only [ih]
      _ = runOps (i :: is) (s.withCommands rest) := by rw [runOps_cons, onNext_exec_withCommands]

/-! ### The obligations -/

/-- Settles O6: the only case of `step_cases` with a word that decodes. -/
theorem stepPerformsTheIssuedWord : Obligations.StepPerformsTheIssuedWord :=
  fun _ _ _ _ hq hd => step_of_cmds_cons hq hd

/-- Settles O7: the only case of `step_cases` with an empty queue. -/
theorem stepWithNothingIssuedChangesNothing : Obligations.StepWithNothingIssuedChangesNothing :=
  fun _ hq => step_of_cmds_nil hq

/-- Settles O8, by induction on the operations in `runSteps_encoded_words`. -/
theorem stepsPerformTheIssuedSequence : Obligations.StepsPerformTheIssuedSequence :=
  fun is rest s => runSteps_encoded_words is rest s

end Sys2Proof.Machine
end

section
/-! SUPPORT. What one operation does to the state, by the branch of its meaning that it takes, and from that what it does to
a channel and to `PEND`. -/

namespace Sys2Proof.Machine

open Sys2Proof

/-! ### The effects of an operation -/

/-- The next states an operation can leave, one constructor for each branch of the meanings that writes something. -/
inductive Effect (s : State) : Instr → State → Prop where
  /-- Only the result is driven: the operations that read, and those that are accepted without effect. -/
  | answer (i : Instr) (v : Byte) : Effect s i (s.drive v)
  | received {c : Channel} (b : Byte) (hon : s.listening c = true) :
      Effect s (.rxByte c b) ((s.setChan c ((s.chan c).receive c s.draws b)).drive 0)
  | lineBroken {c : Channel} (hon : s.listening c = true) :
      Effect s (.rxBreak c) ((s.setChan c ((s.chan c).lineBreak c)).drive 0)
  | released (c : Channel) : Effect s (.frmRelease c) ((s.setChan c (s.chan c).clearRdy).drive 0)
  | staged {idx : Byte} (b : Byte) (hidx : idx.toNat ≤ 17) :
      Effect s (.stgWrite idx b) (({ s with stg := Buf.write s.stg idx.toNat b } : State).drive 0)
  | queuedListening {len : Byte} (hlo : 1 ≤ len.toNat) (hhi : len.toNat ≤ 18) (hfree : s.pend = false)
      (hast : s.ast = .listen) : Effect s (.txQueue len) ((s.loadPending len.toNat).enterPending.drive 1)
  | queuedBusy {len : Byte} (hlo : 1 ≤ len.toNat) (hhi : len.toNat ≤ 18) (hfree : s.pend = false)
      (hast : s.ast ≠ .listen) : Effect s (.txQueue len) ((s.loadPending len.toNat).drive 1)
  | counted (hast : s.ast = .pending) (hdly : s.dly - 1 ≠ 0) : Effect s .tick (s.countDown.drive 0)
  | elapsedFree (hast : s.ast = .pending) (hfree : s.pend = false) :
      Effect s .tick (({ s.countDown with ast := .listen } : State).drive 0)
  | started (hast : s.ast = .pending) (hpend : s.pend = true) : Effect s .tick (s.countDown.beginTx.drive 0)
  | breakEnded (hast : s.ast = .txBreak) :
      Effect s .txBreakDone (({ s with txidx := 0, ast := .txShift } : State).drive 0)
  | lastByteTaken (hast : s.ast = .txShift) (hlast : s.txidx + 1 = s.txlen) :
      Effect s .txByteDone (({ s with txidx := s.txidx + 1, ast := .txDrain } : State).drive 0)
  | byteTaken (hast : s.ast = .txShift) (hmore : s.txidx + 1 ≠ s.txlen) :
      Effect s .txByteDone (({ s with txidx := s.txidx + 1 } : State).drive 0)
  | drainedPending (hast : s.ast = .txDrain) (hpend : s.pend = true) : Effect s .txIdle (s.enterPending.drive 0)
  | drainedFree (hast : s.ast = .txDrain) (hfree : s.pend = false) :
      Effect s .txIdle (({ s with ast := .listen } : State).drive 0)
  | reset : Effect s .reset (s.toReset.drive 0)

/-- A performed operation has one of the effects; which one, the law of its meaning says. -/
theorem exec_effect {i : Instr} {s t : State} (h : exec i s = .next t) : Effect s i t := by
  cases i with
  | rxByte c b =>
    obtain ⟨hon, rfl⟩ | ⟨-, rfl⟩ := execRxByte_next.1 h
    · exact .received b hon
    · exact .answer _ _
  | rxBreak c =>
    obtain ⟨hon, rfl⟩ | ⟨-, rfl⟩ := execRxBreak_next.1 h
    · exact .lineBroken hon
    · exact .answer _ _
  | stgWrite idx b =>
    obtain ⟨hidx, rfl⟩ := execStgWrite_next.1 h
    exact .staged b hidx
  | txQueue len =>
    obtain ⟨⟨hlo, hhi⟩, ⟨-, rfl⟩ | ⟨hfree, hast, rfl⟩ | ⟨hfree, hast, rfl⟩⟩ := execTxQueue_next.1 h
    · exact .answer _ _
    · exact .queuedListening hlo hhi hfree hast
    · exact .queuedBusy hlo hhi hfree hast
  | tick =>
    obtain ⟨-, rfl⟩ | ⟨hast, hdly, rfl⟩ | ⟨hast, -, hfree, rfl⟩ | ⟨hast, -, hpend, -, rfl⟩ := execTick_next.1 h
    · exact .answer _ _
    · exact .counted hast hdly
    · exact .elapsedFree hast hfree
    · exact .started hast hpend
  | txBreakDone =>
    obtain ⟨hast, rfl⟩ := execTxBreakDone_next.1 h
    exact .breakEnded hast
  | txByteDone =>
    obtain ⟨hast, ⟨hlast, rfl⟩ | ⟨hmore, rfl⟩⟩ := execTxByteDone_next.1 h
    · exact .lastByteTaken hast hlast
    · exact .byteTaken hast hmore
  | txIdle =>
    obtain ⟨hast, ⟨hpend, rfl⟩ | ⟨hfree, rfl⟩⟩ := execTxIdle_next.1 h
    · exact .drainedPending hast hpend
    · exact .drainedFree hast hfree
  | frmRelease c =>
    obtain rfl := (done_eq_next _ _ _).1 h
    exact .released c
  | reset =>
    obtain rfl := (done_eq_next _ _ _).1 h
    exact .reset
  | frmRead c idx =>
    obtain ⟨-, rfl⟩ := execFrmRead_next.1 h
    exact .answer _ _
  | statRead c sel =>
    obtain ⟨v, -, -, rfl⟩ := execStatRead_next.1 h
    exact .answer _ _
  | nop | crcStep | sumStep | frmInfo =>
    obtain rfl := (done_eq_next _ _ _).1 h
    exact .answer _ _

/-! ### Channels -/

@[simp] theorem State.toReset_chan (s : State) (c : Channel) : s.toReset.chan c = Chan.reset := by
  cases c <;> rfl

theorem State.chan_setChan (s : State) (c c' : Channel) (k : Chan) :
    (s.setChan c' k).chan c = if c = c' then k else s.chan c := by
  split
  case isTrue hc => rw [hc, s.chan_setChan_same]
  case isFalse hc => exact s.chan_setChan_other k hc

/-- A channel is left alone but by its own parser events and FRM_RELEASE, by the transmission start, which resets the BUS
parser (42_arbiter.md R196), and by RESET. -/
theorem exec_chan_cases {i : Instr} {s t : State} (h : exec i s = .next t) (c : Channel) :
    t.chan c = s.chan c ∨
    (∃ b, i = .rxByte c b ∧ t.chan c = (s.chan c).receive c s.draws b) ∨
    (i = .rxBreak c ∧ t.chan c = (s.chan c).lineBreak c) ∨
    (i = .frmRelease c ∧ t.chan c = (s.chan c).clearRdy) ∨
    (i = .tick ∧ c = .bus ∧ t.chan c = (s.chan c).rearm) ∨
    (i = .reset ∧ t.chan c = Chan.reset) := by
  cases exec_effect h with
  | received | lineBroken | released =>
    rw [State.drive_chan, State.chan_setChan]
    split
    case isTrue hc => subst hc; simp
    case isFalse => exact .inl rfl
  | started => cases c <;> simp
  | reset => simp
  | _ => exact .inl (by cases c <;> rfl)

/-- A byte never clears `RDY` (10_state.md R39): a completed frame is published only where `RDY` was 0. -/
theorem Chan.receive_keeps_rdy {k : Chan} (hrdy : k.rdy = true) (c : Channel) (draw : Nat) (b : Byte) :
    (k.receive c draw b).rdy = true := by
  have hcomplete : ((k.store b).complete c draw).rdy = true := by
    obtain ⟨-, -, hpub⟩ | ⟨-, hdrop⟩ := Chan.complete_cases (k.store b) c draw
    · rw [hpub]; rfl
    · rw [hdrop]; exact hrdy
  obtain ⟨-, hk⟩ | ⟨-, -, -, hk⟩ | ⟨-, -, hk⟩ | ⟨-, -, -, hk⟩ | ⟨-, -, -, -, -, hk⟩ | ⟨-, -, -, n, -, hk⟩ | ⟨-, -, -, hk⟩ |
    ⟨-, -, -, hk⟩ := Chan.receive_cases k c draw b <;> simp [hk, hrdy, hcomplete]

@[simp] theorem Chan.lineBreak_rdy (k : Chan) (c : Channel) : (k.lineBreak c).rdy = k.rdy := by
  cases c <;> rfl

/-! ### `PEND` -/

/-- `PEND` is left alone but by an accepting TX_QUEUE, by the transmission start, and by RESET (10_state.md R39). -/
theorem exec_pend_cases {i : Instr} {s t : State} (h : exec i s = .next t) :
    t.pend = s.pend ∨
    (∃ len, i = .txQueue len ∧ t.pend = true ∧ t.r = 1) ∨
    (i = .tick ∧ s.ast = .pending ∧ t.ast = .txBreak ∧ t.pend = false) ∨
    (i = .reset ∧ t.pend = false) := by
  cases exec_effect h with
  | queuedListening | queuedBusy => exact .inr (.inl ⟨_, rfl, rfl, rfl⟩)
  | started hast => exact .inr (.inr (.inl ⟨rfl, hast, rfl, rfl⟩))
  | reset => exact .inr (.inr (.inr ⟨rfl, rfl⟩))
  | received | lineBroken | released => simp
  | _ => exact .inl rfl

/-! ### The obligation on the flags -/

theorem exec_sets_rdy {i : Instr} {s t : State} (h : exec i s = .next t) {c : Channel} (h0 : (s.chan c).rdy = false)
    (h1 : (t.chan c).rdy = true) : ∃ b, i = .rxByte c b := by
  obtain hc | ⟨b, hi, -⟩ | ⟨-, hc⟩ | ⟨-, hc⟩ | ⟨-, -, hc⟩ | ⟨-, hc⟩ := exec_chan_cases h c
  · simp [hc, h0] at h1
  · exact ⟨b, hi⟩
  · simp [hc, h0] at h1
  · simp [hc] at h1
  · simp [hc, h0] at h1
  · simp [hc, Chan.reset] at h1

theorem exec_clears_rdy {i : Instr} {s t : State} (h : exec i s = .next t) {c : Channel} (h1 : (s.chan c).rdy = true)
    (h0 : (t.chan c).rdy = false) : i = .frmRelease c ∨ i = .reset := by
  obtain hc | ⟨b, -, hc⟩ | ⟨-, hc⟩ | ⟨hi, -⟩ | ⟨-, -, hc⟩ | ⟨hi, -⟩ := exec_chan_cases h c
  · simp [hc, h1] at h0
  · simp [hc, Chan.receive_keeps_rdy h1] at h0
  · simp [hc, h1] at h0
  · exact .inl hi
  · simp [hc, h1] at h0
  · exact .inr hi

/-- Settles O54, from what an operation does to `PEND` and to the channel. -/
theorem flagsAreWrittenOnlyWhereListed : Obligations.FlagsAreWrittenOnlyWhereListed := by
  intro i s t h
  refine ⟨fun h0 h1 => ?_, fun h1 h0 => ?_, fun c => ⟨exec_sets_rdy h, exec_clears_rdy h⟩⟩
  · obtain hp | ⟨len, hi, -, hr⟩ | ⟨-, -, -, hp⟩ | ⟨-, hp⟩ := exec_pend_cases h
    · simp [hp, h0] at h1
    · exact ⟨len, hi, hr⟩
    · simp [hp] at h1
    · simp [hp] at h1
  · obtain hp | ⟨-, -, hp, -⟩ | ⟨hi, hs, ht, -⟩ | ⟨hi, -⟩ := exec_pend_cases h
    · simp [hp, h1] at h0
    · simp [hp] at h0
    · exact .inr ⟨hi, hs, ht⟩
    · exact .inl hi

end Sys2Proof.Machine
end

section
/-! SUPPORT. The invariant of 10_state.md R38 in three parts, the channels, the byte arrays and the arbiter: each operation
keeps each part, and so every step keeps the invariant. The reset state (R41, R280) has it. -/

namespace Sys2Proof.Machine

open Sys2Proof

/-! ### Counters -/

/-- Below its width's bound a counter counts without wrapping. -/
theorem Count.toNat_succ {c : Count} (h : c.toNat < 31) : (c + 1).toNat = c.toNat + 1 := by
  bv_omega

theorem Count.toNat_ofNat {n : Nat} (h : n < 32) : (BitVec.ofNat 5 n : Count).toNat = n := by
  rw [BitVec.toNat_ofNat]
  omega

/-! ### One channel: the parser's part and the published frame's part -/

/-- R38 items 1 to 3: what `CNT` and `EXP` are in each state of the parser; and the `CNT` bytes collected are written. -/
def Chan.Collecting (k : Chan) : Prop :=
  (match k.pst with
    | .idle => k.cnt = 0 ∧ k.exp = 0
    | .headerCollecting => k.cnt.toNat ≤ 1 ∧ k.exp = 0
    | .payloadCollecting => 3 ≤ k.exp.toNat ∧ k.exp.toNat ≤ 18 ∧ 2 ≤ k.cnt.toNat ∧ k.cnt.toNat < k.exp.toNat) ∧
  Buf.writtenBelow k.cnt.toNat k.rxbuf = true

/-- R38 item 4 and R28: `FLEN` is 0 or 3..18, and not 0 while `RDY`; the `FLEN` bytes published are written. -/
def Chan.Published (k : Chan) : Prop :=
  (k.flen = 0 ∨ 3 ≤ k.flen.toNat ∧ k.flen.toNat ≤ 18) ∧ (k.rdy = true → k.flen ≠ 0) ∧
  Buf.writtenBelow k.flen.toNat k.frame = true

theorem Chan.inv_iff (k : Chan) : k.Inv ↔ k.Collecting ∧ k.Published := by
  unfold Chan.Inv Chan.Collecting Chan.Published
  cases k.pst <;> simp [and_assoc]

theorem Chan.reset_inv : Chan.reset.Inv := by decide

theorem Chan.rearm_inv {k : Chan} (h : k.Published) : k.rearm.Inv :=
  (Chan.inv_iff _).2 ⟨⟨⟨rfl, rfl⟩, Buf.writtenBelow_zero _⟩, h⟩

theorem Chan.startFrame_inv {k : Chan} (h : k.Published) : k.startFrame.Inv :=
  (Chan.inv_iff _).2 ⟨⟨⟨Nat.zero_le 1, rfl⟩, Buf.writtenBelow_zero _⟩, h⟩

theorem Chan.clearRdy_inv {k : Chan} (h : k.Inv) : k.clearRdy.Inv := by
  obtain ⟨hcol, hflen, -, hframe⟩ := (Chan.inv_iff k).1 h
  exact (Chan.inv_iff _).2 ⟨hcol, hflen, by simp, hframe⟩

theorem Chan.lineBreak_inv {k : Chan} (h : k.Published) (c : Channel) : (k.lineBreak c).Inv := by
  cases c with
  | bus => exact Chan.startFrame_inv h
  | link => exact Chan.rearm_inv h

/-- A stored byte extends the written bytes by one. -/
theorem Chan.store_writtenBelow {k : Chan} (hcnt : k.cnt.toNat < Config.cap)
    (h : Buf.writtenBelow k.cnt.toNat k.rxbuf = true) (b : Byte) :
    Buf.writtenBelow (k.cnt + 1).toNat (k.store b).rxbuf = true := by
  rw [Count.toNat_succ (hcnt.trans (by decide))]
  exact Buf.writtenBelow_write h b

/-- A completed frame has at least its three bytes, all written, when it is published (R160 to R162). -/
theorem Chan.complete_inv {k : Chan} (hpub : k.Published) (hexp : 3 ≤ k.exp.toNat ∧ k.exp.toNat ≤ 18)
    (hwritten : Buf.writtenBelow k.exp.toNat k.rxbuf = true) (c : Channel) (draw : Nat) : (k.complete c draw).Inv := by
  obtain ⟨-, -, hk⟩ | ⟨-, hk⟩ := Chan.complete_cases k c draw
  · rw [hk, Chan.inv_iff]
    refine ⟨⟨⟨rfl, rfl⟩, Buf.writtenBelow_zero _⟩, .inr hexp, fun _ hzero => ?_, Buf.writtenBelow_copy hwritten⟩
    have : k.exp.toNat = 0 := congrArg BitVec.toNat hzero
    omega
  · rw [hk]
    exact Chan.rearm_inv hpub

/-- Every received byte keeps the channel's invariant. -/
theorem Chan.receive_inv {k : Chan} (h : k.Inv) (c : Channel) (draw : Nat) (b : Byte) : (k.receive c draw b).Inv := by
  obtain ⟨⟨hstate, hwritten⟩, hpub⟩ := (Chan.inv_iff k).1 h
  obtain ⟨-, hk⟩ | ⟨-, -, -, hk⟩ | ⟨-, -, hk⟩ | ⟨hp, hcap, hne, hk⟩ | ⟨-, -, -, -, -, hk⟩ | ⟨hp, hcap, htwo, n, hn, hk⟩ |
    ⟨hp, hcap, hne, hk⟩ | ⟨hp, hcap, hlast, hk⟩ := Chan.receive_cases k c draw b
  all_goals rw [hk]
  · exact h
  · exact Chan.startFrame_inv hpub
  · exact Chan.rearm_inv hpub
  · -- a header byte before the second
    simp only [hp] at hstate
    obtain ⟨hcnt, hexp⟩ := hstate
    have hstored : (k.cnt + 1).toNat ≤ 1 := by bv_omega
    refine (Chan.inv_iff _).2 ⟨⟨?_, Chan.store_writtenBelow hcap hwritten b⟩, hpub⟩
    simp only [Chan.store_pst, hp]
    exact ⟨hstored, hexp⟩
  · exact Chan.rearm_inv hpub
  · -- the length byte
    have hexp : (BitVec.ofNat 5 (n + Config.hdr) : Count).toNat = n + 3 := Count.toNat_ofNat (by simp [Config.hdr]; omega)
    have hcnt : (k.cnt + 1).toNat = 2 := congrArg BitVec.toNat htwo
    refine (Chan.inv_iff _).2 ⟨⟨?_, Chan.store_writtenBelow hcap hwritten b⟩, hpub⟩
    simp only [Chan.expect_pst, Chan.expect_exp, Chan.expect_cnt, Chan.store_cnt, hexp, hcnt]
    omega
  · -- a payload byte before the last
    simp only [hp] at hstate
    obtain ⟨hlo, hhi, hcnt, hlt⟩ := hstate
    have hstored := Count.toNat_succ (c := k.cnt) (by omega)
    have hbelow : (k.cnt + 1).toNat < k.exp.toNat := by bv_omega
    refine (Chan.inv_iff _).2 ⟨⟨?_, Chan.store_writtenBelow hcap hwritten b⟩, hpub⟩
    simp only [Chan.store_pst, hp, Chan.store_exp, Chan.store_cnt]
    omega
  · -- the last byte
    simp only [hp] at hstate
    obtain ⟨hlo, hhi, -, -⟩ := hstate
    have hall := Chan.store_writtenBelow hcap hwritten b
    rw [hlast] at hall
    exact Chan.complete_inv (k := k.store b) hpub ⟨hlo, hhi⟩ hall c draw

/-- Every operation keeps the invariant of a channel. -/
theorem exec_keeps_chanInv {i : Instr} {s t : State} (h : exec i s = .next t) {c : Channel} (hs : (s.chan c).Inv) :
    (t.chan c).Inv := by
  have hpub := ((Chan.inv_iff _).1 hs).2
  obtain hc | ⟨b, -, hc⟩ | ⟨-, hc⟩ | ⟨-, hc⟩ | ⟨-, -, hc⟩ | ⟨-, hc⟩ := exec_chan_cases h c
  all_goals rw [hc]
  · exact hs
  · exact Chan.receive_inv hs c s.draws b
  · exact Chan.lineBreak_inv hpub c
  · exact Chan.clearRdy_inv hs
  · exact Chan.rearm_inv hpub
  · exact Chan.reset_inv

/-! ### The byte arrays' canonical form -/

/-- The canonical form of a channel's two arrays (R60). -/
def Chan.ArraysForm (k : Chan) : Prop := Buf.wf k.rxbuf = true ∧ Buf.wf k.frame = true

/-- The canonical form of the arbiter's three arrays (R60). -/
def State.TxArraysForm (s : State) : Prop := Buf.wf s.stg = true ∧ Buf.wf s.pbuf = true ∧ Buf.wf s.txbuf = true

theorem Memory.wf_iff (s : State) :
    Memory.wf s = true ↔ (∀ c, (s.chan c).ArraysForm) ∧ s.TxArraysForm := by
  have hchan : (∀ c, (s.chan c).ArraysForm) ↔ s.bus.ArraysForm ∧ s.link.ArraysForm :=
    ⟨fun h => ⟨h .bus, h .link⟩, fun ⟨hbus, hlink⟩ c => by cases c <;> assumption⟩
  rw [hchan]
  simp [Memory.wf, Chan.ArraysForm, State.TxArraysForm, and_assoc]

theorem Chan.store_arraysForm {k : Chan} (hcnt : k.cnt.toNat < Config.cap) (h : k.ArraysForm) (b : Byte) :
    (k.store b).ArraysForm := ⟨Buf.wf_write hcnt b h.1, h.2⟩

theorem Chan.complete_arraysForm {k : Chan} (h : k.ArraysForm) (c : Channel) (draw : Nat) :
    (k.complete c draw).ArraysForm := by
  obtain ⟨-, -, hk⟩ | ⟨-, hk⟩ := Chan.complete_cases k c draw
  · rw [hk]; exact ⟨h.1, Buf.wf_copy _ h.1 h.2⟩
  · rw [hk]; exact h

/-- A received byte is stored inside 0..17 or not at all (R163), so it keeps the form, with or without the invariant. -/
theorem Chan.receive_arraysForm {k : Chan} (h : k.ArraysForm) (c : Channel) (draw : Nat) (b : Byte) :
    (k.receive c draw b).ArraysForm := by
  obtain ⟨-, hk⟩ | ⟨-, -, -, hk⟩ | ⟨-, -, hk⟩ | ⟨-, hcap, -, hk⟩ | ⟨-, hcap, -, -, -, hk⟩ | ⟨-, hcap, -, n, -, hk⟩ |
    ⟨-, hcap, -, hk⟩ | ⟨-, hcap, -, hk⟩ := Chan.receive_cases k c draw b
  all_goals rw [hk]
  · exact h
  · exact h
  · exact h
  · exact Chan.store_arraysForm hcap h b
  · exact Chan.store_arraysForm hcap h b
  · exact Chan.store_arraysForm hcap h b
  · exact Chan.store_arraysForm hcap h b
  · exact Chan.complete_arraysForm (Chan.store_arraysForm hcap h b) c draw

theorem exec_keeps_chanArraysForm {i : Instr} {s t : State} (h : exec i s = .next t) {c : Channel}
    (hs : (s.chan c).ArraysForm) : (t.chan c).ArraysForm := by
  obtain hc | ⟨b, -, hc⟩ | ⟨-, hc⟩ | ⟨-, hc⟩ | ⟨-, -, hc⟩ | ⟨-, hc⟩ := exec_chan_cases h c
  all_goals rw [hc]
  · exact hs
  · exact Chan.receive_arraysForm hs c s.draws b
  · cases c <;> exact hs
  · exact hs
  · exact hs
  · exact ⟨rfl, rfl⟩

theorem exec_keeps_txArraysForm {i : Instr} {s t : State} (h : exec i s = .next t) (hs : s.TxArraysForm) :
    t.TxArraysForm := by
  obtain ⟨hstg, hpbuf, htxbuf⟩ := hs
  cases exec_effect h with
  | staged b hidx => exact ⟨Buf.wf_write (Nat.lt_succ_of_le hidx) b hstg, hpbuf, htxbuf⟩
  | queuedListening | queuedBusy => exact ⟨hstg, Buf.wf_copy _ hstg hpbuf, htxbuf⟩
  | started => exact ⟨hstg, hpbuf, Buf.wf_copy _ hpbuf htxbuf⟩
  | reset => exact ⟨rfl, rfl, rfl⟩
  | @received c | @lineBroken c | released c => cases c <;> exact ⟨hstg, hpbuf, htxbuf⟩
  | _ => exact ⟨hstg, hpbuf, htxbuf⟩

/-- Every operation keeps the arrays' canonical form, from every state that has it. -/
theorem exec_keeps_arraysForm {i : Instr} {s t : State} (h : exec i s = .next t) (hs : Memory.wf s = true) :
    Memory.wf t = true := by
  obtain ⟨hchan, htx⟩ := (Memory.wf_iff s).1 hs
  exact (Memory.wf_iff t).2 ⟨fun c => exec_keeps_chanArraysForm h (hchan c), exec_keeps_txArraysForm h htx⟩

/-! ### The arbiter -/

/-- The arbiter's part of R38 that holds in every phase: a pending response has its length, and the registers have R22's
legal values. -/
def State.RegistersInv (s : State) : Prop :=
  s.dly.toNat ≤ s.cfg.respDelay.toNat ∧
  (s.pend = true → 1 ≤ s.plen.toNat ∧ s.plen.toNat ≤ 18) ∧ (s.pend = false → s.plen = 0) ∧
  s.txlen.toNat ≤ 18 ∧ s.txidx.toNat ≤ 18

/-- The arbiter's part of R38 phase by phase. -/
def State.PhaseInv (s : State) : Prop :=
  match s.ast with
  | .listen => s.pend = false
  | .pending => s.pend = true ∧ 1 ≤ s.dly.toNat
  | .txBreak => s.bus.pst = .idle ∧ 1 ≤ s.txlen.toNat
  | .txShift => s.bus.pst = .idle ∧ 1 ≤ s.txlen.toNat ∧ s.txidx.toNat < s.txlen.toNat
  | .txDrain => s.bus.pst = .idle ∧ 1 ≤ s.txlen.toNat ∧ s.txidx = s.txlen

theorem State.arbiterInv_iff (s : State) : s.ArbiterInv ↔ s.RegistersInv ∧ s.PhaseInv := by
  unfold State.ArbiterInv State.RegistersInv State.PhaseInv State.de
  cases s.ast <;> grind

section Phases

variable {s : State}

theorem State.phaseInv_pending (hast : s.ast = .pending) : s.PhaseInv ↔ s.pend = true ∧ 1 ≤ s.dly.toNat := by
  simp only [State.PhaseInv, hast]

theorem State.phaseInv_txBreak (hast : s.ast = .txBreak) :
    s.PhaseInv ↔ s.bus.pst = .idle ∧ 1 ≤ s.txlen.toNat := by
  simp only [State.PhaseInv, hast]

theorem State.phaseInv_txShift (hast : s.ast = .txShift) :
    s.PhaseInv ↔ s.bus.pst = .idle ∧ 1 ≤ s.txlen.toNat ∧ s.txidx.toNat < s.txlen.toNat := by
  simp only [State.PhaseInv, hast]

end Phases

/-! ### The arbiter's moves -/

theorem State.setChan_registersInv {s : State} (h : s.RegistersInv) (c : Channel) (k : Chan) :
    (s.setChan c k).RegistersInv := by
  cases c <;> exact h

/-- A phase that speaks of the BUS parser has the BUS receiver off (R156), so what a channel receives keeps the phase. -/
theorem State.setChan_phaseInv {s : State} (h : s.PhaseInv) {c : Channel} (hon : s.listening c = true) (k : Chan) :
    (s.setChan c k).PhaseInv := by
  cases c with
  | link => exact h
  | bus => cases ha : s.ast <;> simp_all [State.listening, State.rxEn, State.de, State.PhaseInv]

theorem State.clearRdy_phaseInv {s : State} (h : s.PhaseInv) (c : Channel) :
    (s.setChan c (s.chan c).clearRdy).PhaseInv := by
  cases c <;> exact h

theorem State.loadPending_registersInv {s : State} (h : s.RegistersInv) {n : Nat} (hlo : 1 ≤ n) (hhi : n ≤ 18) :
    (s.loadPending n).RegistersInv := by
  obtain ⟨hdly, -, -, htxlen, htxidx⟩ := h
  have hplen : (BitVec.ofNat 5 n : Count).toNat = n := Count.toNat_ofNat (by omega)
  exact ⟨hdly, fun _ => by rw [State.loadPending_plen, hplen]; exact ⟨hlo, hhi⟩, nofun, htxlen, htxidx⟩

/-- Outside LISTEN no phase asks for an empty slot. -/
theorem State.loadPending_phaseInv {s : State} (h : s.PhaseInv) (hast : s.ast ≠ .listen) (n : Nat) :
    (s.loadPending n).PhaseInv := by
  cases ha : s.ast <;> simp_all [State.PhaseInv]

theorem State.enterPending_registersInv {s : State} (h : s.RegistersInv) : s.enterPending.RegistersInv :=
  ⟨Nat.le_refl _, h.2⟩

theorem State.enterPending_phaseInv {s : State} (hpend : s.pend = true) (hlegal : s.cfg.Legal) :
    s.enterPending.PhaseInv := ⟨hpend, hlegal⟩

theorem State.countDown_registersInv {s : State} (h : s.RegistersInv) (hdly : 1 ≤ s.dly.toNat) :
    s.countDown.RegistersInv := by
  have hle : (s.dly - 1).toNat ≤ s.dly.toNat := by bv_omega
  exact ⟨hle.trans h.1, h.2⟩

theorem State.countDown_phaseInv {s : State} (hast : s.ast = .pending) (hpend : s.pend = true) (hdly : s.dly - 1 ≠ 0) :
    s.countDown.PhaseInv := by
  have hpos : 1 ≤ (s.dly - 1).toNat := by bv_omega
  exact (State.phaseInv_pending (s := s.countDown) hast).2 ⟨hpend, hpos⟩

theorem State.beginTx_registersInv {s : State} (h : s.RegistersInv) (hpend : s.pend = true) :
    s.beginTx.RegistersInv := by
  obtain ⟨hdly, hslot, -, -, -⟩ := h
  exact ⟨hdly, nofun, fun _ => rfl, (hslot hpend).2, Nat.zero_le _⟩

theorem State.beginTx_phaseInv {s : State} (h : s.RegistersInv) (hpend : s.pend = true) : s.beginTx.PhaseInv := by
  obtain ⟨-, hslot, -, -, -⟩ := h
  exact ⟨rfl, (hslot hpend).1⟩

/-- While bytes remain `TXIDX` counts up to `TXLEN` at most. -/
theorem State.byteTaken_registersInv {s : State} (h : s.RegistersInv) (hmore : s.txidx.toNat < s.txlen.toNat) :
    ({ s with txidx := s.txidx + 1 } : State).RegistersInv := by
  obtain ⟨hdly, hslot, hempty, htxlen, -⟩ := h
  have hidx := Count.toNat_succ (c := s.txidx) (by omega)
  exact ⟨hdly, hslot, hempty, htxlen, by simp only [hidx]; omega⟩

theorem State.toReset_registersInv (s : State) : s.toReset.RegistersInv :=
  ⟨Nat.zero_le _, nofun, fun _ => rfl, Nat.zero_le _, Nat.zero_le _⟩

theorem State.toReset_phaseInv (s : State) : s.toReset.PhaseInv := rfl

/-- Every operation keeps the arbiter's part of the invariant. Registers and phase go together: `DLY` counts down only where
the phase keeps it above 0, and `TXIDX` counts up only where the phase keeps it below `TXLEN`. -/
theorem exec_keeps_arbiterInv {i : Instr} {s t : State} (h : exec i s = .next t) (hlegal : s.cfg.Legal)
    (hs : s.ArbiterInv) : t.ArbiterInv := by
  obtain ⟨hregs, hphase⟩ := (State.arbiterInv_iff s).1 hs
  rw [State.arbiterInv_iff]
  cases exec_effect h with
  | answer | staged => exact ⟨hregs, hphase⟩
  | received _ hon | lineBroken hon => exact ⟨State.setChan_registersInv hregs _ _, State.setChan_phaseInv hphase hon _⟩
  | released c => exact ⟨State.setChan_registersInv hregs _ _, State.clearRdy_phaseInv hphase c⟩
  | queuedListening hlo hhi =>
    exact ⟨State.enterPending_registersInv (State.loadPending_registersInv hregs hlo hhi),
      State.enterPending_phaseInv rfl hlegal⟩
  | @queuedBusy len hlo hhi _ hast =>
    exact ⟨State.loadPending_registersInv hregs hlo hhi, State.loadPending_phaseInv hphase hast len.toNat⟩
  | counted hast hdly =>
    obtain ⟨hpend, hpos⟩ := (State.phaseInv_pending hast).1 hphase
    exact ⟨State.countDown_registersInv hregs hpos, State.countDown_phaseInv hast hpend hdly⟩
  | elapsedFree hast hfree => simp [State.phaseInv_pending hast, hfree] at hphase
  | started hast hpend =>
    obtain ⟨-, hpos⟩ := (State.phaseInv_pending hast).1 hphase
    have hcounted := State.countDown_registersInv hregs hpos
    exact ⟨State.beginTx_registersInv (s := s.countDown) hcounted hpend,
      State.beginTx_phaseInv (s := s.countDown) hcounted hpend⟩
  | breakEnded hast =>
    obtain ⟨hidle, hlen⟩ := (State.phaseInv_txBreak hast).1 hphase
    obtain ⟨hdly, hslot, hempty, htxlen, -⟩ := hregs
    exact ⟨⟨hdly, hslot, hempty, htxlen, Nat.zero_le _⟩, hidle, hlen, hlen⟩
  | lastByteTaken hast hlast =>
    obtain ⟨hidle, hlen, hmore⟩ := (State.phaseInv_txShift hast).1 hphase
    exact ⟨State.byteTaken_registersInv hregs hmore, hidle, hlen, hlast⟩
  | byteTaken hast hnotLast =>
    obtain ⟨hidle, hlen, hmore⟩ := (State.phaseInv_txShift hast).1 hphase
    have hstill : (s.txidx + 1).toNat < s.txlen.toNat := by bv_omega
    have hshift := State.phaseInv_txShift (s := ({ s with txidx := s.txidx + 1 } : State).drive 0) hast
    exact ⟨State.byteTaken_registersInv hregs hmore, hshift.2 ⟨hidle, hlen, hstill⟩⟩
  | drainedPending _ hpend => exact ⟨State.enterPending_registersInv hregs, State.enterPending_phaseInv hpend hlegal⟩
  | drainedFree _ hfree => exact ⟨hregs, hfree⟩
  | reset => exact ⟨s.toReset_registersInv, s.toReset_phaseInv⟩

/-! ### The whole invariant -/

/-- No operation writes the parameters (70_reset_and_hazards.md R282). -/
theorem exec_cfg {i : Instr} {s t : State} (h : exec i s = .next t) : t.cfg = s.cfg := by
  cases exec_effect h with
  | received | lineBroken | released => simp
  | _ => rfl

theorem exec_keeps_inv {i : Instr} {s t : State} (h : exec i s = .next t) (hs : s.Inv) : t.Inv := by
  obtain ⟨hbus, hlink, harb, hlegal, hwf⟩ := hs
  refine ⟨exec_keeps_chanInv h (c := .bus) hbus, exec_keeps_chanInv h (c := .link) hlink,
    exec_keeps_arbiterInv h hlegal harb, ?_, exec_keeps_arraysForm h hwf⟩
  rwa [exec_cfg h]

/-- What every operation keeps and no waiting word matters to, every step keeps. -/
theorem step_keeps {P : State → Prop} (hqueue : ∀ s q, P s → P (s.withCommands q))
    (hexec : ∀ {i s t}, exec i s = .next t → P s → P t) {s t : State} (hs : P s) (h : step s = .next t) : P t := by
  obtain ⟨-, hstep⟩ | ⟨w, rest, -, ⟨e, -, hstep⟩ | ⟨i, -, hstep⟩⟩ := step_cases s
  all_goals rw [hstep] at h
  · obtain rfl : s = t := by simpa using h
    exact hs
  · simp at h
  · exact hexec h (hqueue s rest hs)

/-- RESET leaves a state with the invariant, from any state with a legal parameter. -/
theorem State.toReset_inv {s : State} (hlegal : s.cfg.Legal) : s.toReset.Inv :=
  ⟨Chan.reset_inv, Chan.reset_inv, (State.arbiterInv_iff _).2 ⟨s.toReset_registersInv, s.toReset_phaseInv⟩, hlegal, rfl⟩

/-! ### The reset values -/

@[simp] theorem State.toReset_byteAt (s : State) (sp : Space) (i : Nat) : s.toReset.byteAt sp i = none := by
  cases sp <;> simp [State.byteAt, State.array, Chan.reset]

/-- Power-on and RESET are one thing: some state with R22's elements at their reset values. -/
theorem exists_toReset_of_reset {t : State} (h : t = State.reset ∨ ∃ s, exec .reset s = .next t) :
    ∃ u : State, t = u.toReset := by
  obtain rfl | ⟨s, hs⟩ := h
  · exact ⟨State.reset, rfl⟩
  · obtain rfl := (done_eq_next _ _ _).1 hs
    exact ⟨s.drive 0, rfl⟩

/-! ### The obligations -/

/-- Settles O52, from the value of each element of `toReset`; the outputs are computed from `AST`. -/
theorem resetValuesOfEveryElement : Obligations.ResetValuesOfEveryElement := by
  intro t ht
  obtain ⟨u, rfl⟩ := exists_toReset_of_reset ht
  refine ⟨fun c => ?_, rfl, rfl, rfl, rfl, rfl, rfl, u.toReset_byteAt, rfl, rfl, rfl, rfl, rfl⟩
  simp [State.rdyOut, Chan.reset]

/-- Settles O55: the reset state is its own reset, and the reference `RESP_DELAY` is legal (log 5). -/
theorem resetStateIsInvariant : Obligations.ResetStateIsInvariant :=
  State.toReset_inv (s := State.reset) (by decide)

/-- Settles O56: the channels, the arrays, the arbiter and the parameter each keep their part. -/
theorem everyStepKeepsTheInvariant : Obligations.EveryStepKeepsTheInvariant :=
  fun _ _ hs h => step_keeps (P := State.Inv) (fun _ _ hq => hq) exec_keeps_inv hs h

end Sys2Proof.Machine
end

section
/-! SUPPORT. The internal accesses of the byte arrays (20_memory.md R61). Every step keeps the arrays' form, and the two
operations that can fault, TICK at a transmission start and STAT_READ of `TX_DATA`, stay inside 0..17 under the
invariant. -/

namespace Sys2Proof.Machine

open Sys2Proof

/-! ### Where an operation can fault (log 6) -/

/-- TICK faults only in a transmission start with a `PLEN` above 18 (42_arbiter.md R196). -/
theorem execTick_eq_fault {s : State} {why : Fault} : execTick s = .fault why ↔
    s.ast = .pending ∧ s.dly - 1 = 0 ∧ s.pend = true ∧ Config.cap < s.plen.toNat := by
  unfold execTick
  by_cases hast : s.ast = .pending
  · rw [if_pos hast]
    split
    case isTrue hdly =>
      rw [startTx_eq_fault]
      exact ⟨fun ⟨hpend, habove⟩ => ⟨hast, hdly, hpend, habove⟩, fun ⟨_, _, hstart⟩ => hstart⟩
    case isFalse hdly => exact iff_of_false (done_ne_fault _ _ _) fun ⟨_, hzero, _⟩ => hdly hzero
  · simp [hast]

/-- STAT_READ faults only in a view that reads outside its array (43_control.md R232). -/
theorem execStatRead_eq_fault {c : Channel} {sel : Byte} {s : State} {why : Fault} :
    execStatRead c sel s = .fault why ↔ ∃ v, selectorOperand c sel = some v ∧ s.viewInBounds v = false := by
  cases why
  cases hsel : selectorOperand c sel with
  | none => simp [execStatRead, hsel]
  | some v => cases hin : s.viewInBounds v <;> simp [execStatRead, hsel, hin]

/-- Only TICK and STAT_READ can fault: every branch of another operation is done or refused. -/
theorem exec_fault_cases {i : Instr} {s : State} {why : Fault} (h : exec i s = .fault why) :
    (i = .tick ∧ execTick s = .fault why) ∨ ∃ c sel, i = .statRead c sel ∧ execStatRead c sel s = .fault why := by
  cases i with
  | tick => exact .inl ⟨rfl, h⟩
  | statRead c sel => exact .inr ⟨c, sel, rfl, h⟩
  | nop | crcStep | sumStep | frmInfo | frmRelease | reset => exact absurd h (done_ne_fault _ _ _)
  | rxByte | rxBreak | txBreakDone | txByteDone | txIdle =>
    simp only [exec, execRxByte, execRxBreak, execTxBreakDone, execTxByteDone, execTxIdle] at h
    split_ifs at h <;> simp at h
  | frmRead _ idx | stgWrite idx =>
    simp only [exec, execFrmRead, execStgWrite] at h
    cases hidx : indexOperand idx <;> simp [hidx] at h
  | txQueue len =>
    simp only [exec, execTxQueue] at h
    cases hlen : lengthOperand len with
    | none => simp [hlen] at h
    | some n => simp only [hlen] at h; split_ifs at h <;> simp at h

/-! ### The invariant keeps the accesses inside 0..17 -/

theorem State.plen_le_cap {s : State} (h : s.RegistersInv) : s.plen.toNat ≤ Config.cap := by
  obtain ⟨-, hslot, hempty, -, -⟩ := h
  cases hpend : s.pend with
  | true => exact (hslot hpend).2
  | false => simp [hempty hpend]

/-- While a byte is offered `TXIDX` is below `TXLEN`, and `TXLEN` is at most 18 (10_state.md R38). -/
theorem State.txidx_lt_cap {s : State} (h : s.ArbiterInv) (hoffered : s.txValid = true) :
    s.txidx.toNat < Config.cap := by
  obtain ⟨⟨-, -, -, htxlen, -⟩, hphase⟩ := (State.arbiterInv_iff s).1 h
  have hast : s.ast = .txShift := by simpa [State.txValid] using hoffered
  obtain ⟨-, -, hbelow⟩ := (State.phaseInv_txShift hast).1 hphase
  exact hbelow.trans_le htxlen

/-- Every view stays inside its array; only that of `TX_DATA` reads one. -/
theorem State.viewInBounds_of_arbiterInv {s : State} (h : s.ArbiterInv) (v : View) : s.viewInBounds v = true := by
  cases v with
  | txData =>
    cases hoffered : s.txValid with
    | false => simp [State.viewInBounds, hoffered]
    | true => simp [State.viewInBounds, State.txidx_lt_cap h hoffered]
  | _ => rfl

/-- Under the arbiter's part of the invariant no operation faults. -/
theorem exec_ne_fault {s : State} (h : s.ArbiterInv) (i : Instr) (why : Fault) : exec i s ≠ .fault why := by
  intro hfault
  obtain ⟨-, htick⟩ | ⟨c, sel, -, hread⟩ := exec_fault_cases hfault
  · obtain ⟨-, -, -, habove⟩ := execTick_eq_fault.1 htick
    exact habove.not_ge (State.plen_le_cap ((State.arbiterInv_iff s).1 h).1)
  · obtain ⟨v, -, hout⟩ := execStatRead_eq_fault.1 hread
    simp [State.viewInBounds_of_arbiterInv h v] at hout

/-! ### The obligations -/

/-- Settles O57: every operation keeps the form, and the form does not depend on the words that wait. -/
theorem everyStepKeepsTheArraysForm : Obligations.EveryStepKeepsTheArraysForm :=
  fun _ _ hs h => step_keeps (P := fun s => Memory.wf s = true) (fun _ _ hq => hq) exec_keeps_arraysForm hs h

/-- Settles O59: of a step's three cases only the performed operation could fault, and the invariant rules that out. -/
theorem noStepFaults : Obligations.NoStepFaults := by
  intro s why hs hfault
  obtain ⟨-, -, harb, -, -⟩ := hs
  obtain ⟨-, hstep⟩ | ⟨w, rest, -, ⟨e, -, hstep⟩ | ⟨i, -, hstep⟩⟩ := step_cases s
  all_goals rw [hstep] at hfault
  · simp at hfault
  · simp at hfault
  · exact exec_ne_fault (s := s.withCommands rest) harb i why hfault

end Sys2Proof.Machine
end

section
/-! SUPPORT. The decoder against the encoder and against the match and mask table (30_encoding.md R80 to R87): an opcode's
row leaves exactly the fields free that the opcode uses, so a row selects a word exactly when the decoder accepts it. -/

namespace Sys2Proof

/-! ### Words that decode -/

/-- R83 for a word: `z` is 000, and each field its opcode does not use is zero. -/
def FieldsLegal (w : CmdWord) : Prop :=
  zField w = 0 ∧ ((fieldUse (opField w)).ch = false → chField w = 0) ∧
    ((fieldUse (opField w)).a = false → aField w = 0) ∧ ((fieldUse (opField w)).b = false → bField w = 0)

theorem decode_eq_ok_iff_legal (w : CmdWord) (i : Instr) : decode w = .ok i ↔
    FieldsLegal w ∧ operation (opField w) (channelOf (chField w)) (aField w) (bField w) = i := by
  simp only [decode_eq_ok_iff, FieldsLegal, and_assoc]

theorem exists_decode_eq_ok_iff (w : CmdWord) : (∃ i, decode w = .ok i) ↔ FieldsLegal w := by
  simp [decode_eq_ok_iff_legal]

/-- The word of the operation an opcode selects has that opcode, and the operands if those it does not use are zero. -/
theorem encode_operation (op : BitVec 4) {c : Channel} {a b : Byte} (hc : (fieldUse op).ch = false → c = .bus)
    (ha : (fieldUse op).a = false → a = 0) (hb : (fieldUse op).b = false → b = 0) :
    encode (operation op c a b) = cmdWord op c a b := by
  obtain ⟨n, hn⟩ := op
  interval_cases n <;> simp_all [fieldUse, operation, encode]

theorem encode_of_decode {w : CmdWord} {i : Instr} (h : decode w = .ok i) : encode i = w := by
  obtain ⟨⟨hz, hch, ha, hb⟩, rfl⟩ := (decode_eq_ok_iff_legal w i).1 h
  rw [encode_operation _ (fun hunused => by rw [hch hunused]; rfl) ha hb, cmdWord_fields w hz]

/-! ### The rows of R82 -/

/-- The row of an opcode: no operand matters to it. -/
def rowOfOpcode (op : BitVec 4) : OpcodeRow := rowOf (operation op .bus 0 0)

theorem rowOf_operation (op : BitVec 4) (c : Channel) (a b : Byte) :
    rowOf (operation op c a b) = rowOfOpcode op := by
  unfold rowOfOpcode operation
  split <;> rfl

theorem mem_opcodeRows_iff (row : OpcodeRow) : row ∈ opcodeRows ↔ ∃ op, row = rowOfOpcode op := by
  have hrows : opcodeRows = (List.finRange 16).map fun n => rowOfOpcode (BitVec.ofFin n) := by decide
  simp only [hrows, List.mem_map, List.mem_finRange, true_and]
  exact ⟨fun ⟨n, hn⟩ => ⟨_, hn.symm⟩, fun ⟨op, hop⟩ => ⟨op.toFin, hop.symm⟩⟩

/-- The mask bits of a field: all ones, unless the opcode uses the field. -/
def fieldMask (n : Nat) (used : Bool) : BitVec n := if used then 0 else BitVec.allOnes n

theorem and_fieldMask_eq_zero {n : Nat} (x : BitVec n) (used : Bool) :
    x &&& fieldMask n used = 0 ↔ (used = false → x = 0) := by
  cases used <;> simp [fieldMask]

/-- R82's masks cover the opcode, `z` and every field the opcode does not use. -/
theorem rowOfOpcode_mask : ∀ op, opField (rowOfOpcode op).mask = BitVec.allOnes 4 ∧
    chField (rowOfOpcode op).mask = fieldMask 1 (fieldUse op).ch ∧ zField (rowOfOpcode op).mask = BitVec.allOnes 3 ∧
    aField (rowOfOpcode op).mask = fieldMask 8 (fieldUse op).a ∧
    bField (rowOfOpcode op).mask = fieldMask 8 (fieldUse op).b := by decide

/-- R82's matches are `op << 20`. -/
theorem rowOfOpcode_pattern : ∀ op, (rowOfOpcode op).pattern = cmdWord op .bus 0 0 := by decide

theorem rowOfOpcode_injective : Function.Injective rowOfOpcode := by
  intro op op' h
  have hpattern := congrArg (fun row => opField row.pattern) h
  simpa [rowOfOpcode_pattern] using hpattern

/-- A row selects exactly the words of its opcode that the decoder accepts. -/
theorem rowOfOpcode_selects_iff (op : BitVec 4) (w : CmdWord) :
    (rowOfOpcode op).selects w = true ↔ op = opField w ∧ FieldsLegal w := by
  obtain ⟨hop, hch, hz, ha, hb⟩ := rowOfOpcode_mask op
  rw [OpcodeRow.selects_iff, hop, hch, hz, ha, hb, rowOfOpcode_pattern]
  simp only [opField_cmdWord, chField_cmdWord, zField_cmdWord, aField_cmdWord, bField_cmdWord, channelBit_bus,
    and_fieldMask_eq_zero, BitVec.and_allOnes, FieldsLegal]
  constructor
  · rintro ⟨rfl, hch, hz, ha, hb⟩
    exact ⟨rfl, hz, hch, ha, hb⟩
  · rintro ⟨rfl, hz, hch, ha, hb⟩
    exact ⟨rfl, hch, hz, ha, hb⟩

/-! ### The obligations -/

/-- Settles O1: `decode_encode`, and back through the fields of a word that decodes. -/
theorem decodeIsTheInverseOfEncode : Obligations.DecodeIsTheInverseOfEncode := by
  intro w i
  constructor
  · exact encode_of_decode
  · rintro rfl
    exact decode_encode i

/-- Settles O2: a word's fields are legal exactly when the row of its opcode selects it. -/
theorem wordDecodesIffARowSelectsIt : Obligations.WordDecodesIffARowSelectsIt := by
  constructor
  · intro w
    simp [exists_decode_eq_ok_iff, mem_opcodeRows_iff, rowOfOpcode_selects_iff]
  · intro w i h row hrow
    obtain ⟨op, rfl⟩ := (mem_opcodeRows_iff row).1 hrow
    obtain ⟨hlegal, rfl⟩ := (decode_eq_ok_iff_legal w i).1 h
    simp only [rowOf_operation, rowOfOpcode_selects_iff, rowOfOpcode_injective.eq_iff, hlegal, and_true]

/-- Settles O5, by evaluating the decoder on each word. -/
theorem decoderReadsTheSpecsWords : Obligations.DecoderReadsTheSpecsWords :=
  ⟨rfl, rfl, rfl, rfl, rfl, rfl, rfl, rfl, rfl, rfl, rfl, rfl, rfl⟩

end Sys2Proof
end

section
/-! SUPPORT. Chains of engine operations (30_encoding.md R89): each operation's result is the accumulator of the next, so
the chain drives the fold of its bytes (40_checksum.md R123, R127). -/

namespace Sys2Proof.Machine

open Sys2Proof

/-- A chain of operations `op` over bytes, the accumulator of each the value `f` gives for the one before it: what the
pseudos `crc8` and `sum8` expand to. -/
def foldOps (op : Byte → Byte → Instr) (f : Byte → Byte → Byte) : Byte → List Byte → List Instr
  | _, [] => []
  | acc, b :: rest => op acc b :: foldOps op f (f acc b) rest

theorem crcChain_eq_foldOps (acc : Byte) (l : List Byte) : crcChain acc l = foldOps .crcStep crcStep acc l := by
  induction l generalizing acc with
  | nil => rfl
  | cons b l ih => rw [crcChain, foldOps, ih]

theorem sumChain_eq_foldOps (acc : Byte) (l : List Byte) : sumChain acc l = foldOps .sumStep sumStep acc l := by
  induction l generalizing acc with
  | nil => rfl
  | cons b l ih => rw [sumChain, foldOps, ih]

/-- By induction on the bytes after the first: an operation that drives `f` of its operands, chained, drives the fold. -/
theorem runOps_foldOps {op : Byte → Byte → Instr} {f : Byte → Byte → Byte}
    (hop : ∀ acc b s, exec (op acc b) s = done s (f acc b)) (acc b : Byte) (l : List Byte) (s : State) :
    runOps (foldOps op f acc (b :: l)) s =
      .next { s with r := (b :: l).foldl f acc, draws := s.draws + (l.length + 1) } := by
  induction l generalizing acc b s with
  | nil => simp [foldOps, runOps_cons, hop, done, State.drive]
  | cons b' l ih =>
    rw [foldOps, runOps_cons, hop, done, onNext_next, ih]
    simp [State.drive, Nat.add_assoc, Nat.add_comm 1]

/-! ### The obligations -/

/-- Settles O11: the CRC-8 is the fold of the steps that CRC_STEP drives. -/
theorem crcChainComputesCrc8 : Obligations.CrcChainComputesCrc8 := by
  intro b l s
  rw [crc8Ops, crcChain_eq_foldOps]
  exact runOps_foldOps (fun _ _ _ => rfl) _ b l s

/-- Settles O12: the seeded sum is the fold of the steps that SUM_STEP drives. -/
theorem sumChainComputesSum8 : Obligations.SumChainComputesSum8 := by
  intro b l s
  rw [sum8Ops, sumChain_eq_foldOps]
  exact runOps_foldOps (fun _ _ _ => rfl) _ b l s

end Sys2Proof.Machine
end

section
/-! SUPPORT. The refusals: a reserved word's, from the decoder (30_encoding.md R83), and those of the operations, one law for
each meaning that refuses (30_encoding.md R84, 42_arbiter.md R201). What neither refuses nor faults is performed. -/

namespace Sys2Proof.Machine

open Sys2Proof

/-! ### The meanings that refuse -/

section Meanings

variable {s : State} {why : Refusal}

theorem execFrmRead_eq_refused {c : Channel} {idx : Byte} :
    execFrmRead c idx s = .refused why ↔ why = .index ∧ 17 < idx.toNat := by
  rw [← indexOperand_eq_none]
  cases hidx : indexOperand idx with
  | none => simp [execFrmRead, hidx, eq_comm]
  | some i => simp [execFrmRead, hidx]

theorem execStgWrite_eq_refused {idx b : Byte} :
    execStgWrite idx b s = .refused why ↔ why = .index ∧ 17 < idx.toNat := by
  rw [← indexOperand_eq_none]
  cases hidx : indexOperand idx with
  | none => simp [execStgWrite, hidx, eq_comm]
  | some i => simp [execStgWrite, hidx]

theorem execTxQueue_eq_refused {len : Byte} :
    execTxQueue len s = .refused why ↔ why = .len ∧ (len.toNat < 1 ∨ 18 < len.toNat) := by
  rw [← lengthOperand_eq_none]
  cases hlen : lengthOperand len with
  | none => simp [execTxQueue, hlen, eq_comm]
  | some n => simp only [execTxQueue, hlen]; split_ifs <;> simp

theorem execStatRead_eq_refused {c : Channel} {sel : Byte} : execStatRead c sel s = .refused why ↔
    why = .sel ∧ (7 < sel.toNat ∨ (c = .link ∧ sel.toNat ≠ 5 ∧ sel.toNat ≠ 6)) := by
  rw [← selectorOperand_eq_none]
  cases hsel : selectorOperand c sel with
  | none => simp [execStatRead, hsel, eq_comm]
  | some v => cases hin : s.viewInBounds v <;> simp [execStatRead, hsel, hin]

theorem execTxBreakDone_eq_refused : execTxBreakDone s = .refused why ↔ why = .phase ∧ s.ast ≠ .txBreak := by
  by_cases hast : s.ast = .txBreak
  · simp [execTxBreakDone, hast]
  · simp [execTxBreakDone, hast, eq_comm]

theorem execTxByteDone_eq_refused : execTxByteDone s = .refused why ↔ why = .phase ∧ s.ast ≠ .txShift := by
  by_cases hast : s.ast = .txShift
  · simp only [execTxByteDone, if_pos hast]
    split_ifs <;> simp [hast]
  · simp [execTxByteDone, hast, eq_comm]

theorem execTxIdle_eq_refused : execTxIdle s = .refused why ↔ why = .phase ∧ s.ast ≠ .txDrain := by
  by_cases hast : s.ast = .txDrain
  · simp only [execTxIdle, if_pos hast]
    split_ifs <;> simp [hast]
  · simp [execTxIdle, hast, eq_comm]

/-! ### The meanings that branch and never refuse -/

theorem execRxByte_ne_refused (c : Channel) (b : Byte) : execRxByte c b s ≠ .refused why := by
  unfold execRxByte
  split_ifs <;> exact done_ne_refused _ _ _

theorem execRxBreak_ne_refused (c : Channel) : execRxBreak c s ≠ .refused why := by
  unfold execRxBreak
  split_ifs <;> exact done_ne_refused _ _ _

theorem execTick_ne_refused : execTick s ≠ .refused why := by
  unfold execTick startTx
  split_ifs <;> simp

end Meanings

/-! ### Every operation -/

/-- Settles O4, operation by operation, from the law of each meaning. -/
theorem refusalsOfPerformedOperations : Obligations.RefusalsOfPerformedOperations := by
  intro i s why
  cases i with
  | nop | crcStep | sumStep | frmInfo | frmRelease | reset =>
    exact iff_of_false (done_ne_refused _ _ _) (by simp)
  | rxByte c b => exact iff_of_false (execRxByte_ne_refused c b) (by simp)
  | rxBreak c => exact iff_of_false (execRxBreak_ne_refused c) (by simp)
  | tick => exact iff_of_false execTick_ne_refused (by simp)
  | frmRead => exact execFrmRead_eq_refused.trans (by simp)
  | stgWrite => exact execStgWrite_eq_refused.trans (by simp)
  | txQueue => exact execTxQueue_eq_refused.trans (by simp)
  | txBreakDone => exact execTxBreakDone_eq_refused.trans (by simp)
  | txByteDone => exact execTxByteDone_eq_refused.trans (by simp)
  | txIdle => exact execTxIdle_eq_refused.trans (by simp)
  | statRead c sel =>
    refine execStatRead_eq_refused.trans ?_
    cases c with
    | bus => simp
    | link => simp; omega

/-- `REF_RSVD` is no operation's refusal: only the decoder finds it (R83). -/
theorem exec_ne_rsvd (i : Instr) (s : State) : exec i s ≠ .refused .rsvd := by
  rw [Ne, refusalsOfPerformedOperations i s .rsvd]
  simp

/-- A well-formed operation is refused only as a transport event out of its phase. -/
theorem exec_ne_refused {i : Instr} {s : State} (hwf : i.wellFormed = true) (hbreak : i = .txBreakDone → s.ast = .txBreak)
    (hbyte : i = .txByteDone → s.ast = .txShift) (hidle : i = .txIdle → s.ast = .txDrain) (why : Refusal) :
    exec i s ≠ .refused why := by
  rw [Ne, refusalsOfPerformedOperations i s why]
  rintro (⟨-, ⟨c, idx, rfl, hidx⟩ | ⟨idx, b, rfl, hidx⟩⟩ | ⟨-, len, rfl, hlen⟩ |
    ⟨-, ⟨sel, rfl, hsel⟩ | ⟨sel, rfl, hsel⟩⟩ | ⟨-, ⟨rfl, hast⟩ | ⟨rfl, hast⟩ | ⟨rfl, hast⟩⟩)
  case inl.inl | inl.inr => simp [Instr.wellFormed, indexInRange] at hwf; omega
  · simp [Instr.wellFormed, lengthInRange] at hwf; omega
  · simp [Instr.wellFormed, selectorInTable] at hwf; omega
  · simp [Instr.wellFormed, selectorInTable] at hwf; omega
  · exact hast (hbreak rfl)
  · exact hast (hbyte rfl)
  · exact hast (hidle rfl)

/-- Settles O60: a well-formed operation in its phase is not refused, and the invariant keeps it from faulting. -/
theorem wellFormedOperationsComplete : Obligations.WellFormedOperationsComplete := by
  intro i s hinv hwf hbreak hbyte hidle
  obtain ⟨-, -, harb, -, -⟩ := hinv
  cases h : exec i s with
  | next t => exact ⟨t, rfl⟩
  | fault why => exact absurd h (exec_ne_fault harb i why)
  | refused why => exact absurd h (exec_ne_refused hwf hbreak hbyte hidle why)

/-! ### Reserved words -/

theorem step_of_reserved {s : State} {w : CmdWord} {rest : List CmdWord} {e : Reserved} (hq : s.cmds = w :: rest)
    (hd : decode w = .error e) : step s = .refused .rsvd := by
  obtain ⟨hnil, -⟩ | ⟨w', rest', hcons, hword⟩ := step_cases s
  · simp [hq] at hnil
  · obtain ⟨rfl, -⟩ : w = w' ∧ rest = rest' := by simpa [hq] using hcons
    obtain ⟨-, -, hstep⟩ | ⟨i, hok, -⟩ := hword
    · exact hstep
    · simp [hd] at hok

/-- The step refuses with `REF_RSVD` exactly what the decoder rejects. -/
theorem step_eq_rsvd_iff {s : State} {w : CmdWord} {rest : List CmdWord} (hq : s.cmds = w :: rest) :
    step s = .refused .rsvd ↔ ¬ FieldsLegal w := by
  rw [← exists_decode_eq_ok_iff]
  cases hd : decode w with
  | ok i => simp [step_of_cmds_cons hq hd, exec_ne_rsvd]
  | error e => simp [step_of_reserved hq hd]

/-- The opcodes without a channel, an operand `a`, an operand `b` (R82). -/
theorem fieldUse_eq_false_iff : ∀ op, ((fieldUse op).ch = false ↔ op.toNat ∉ [0x3, 0x4, 0x5, 0x6, 0x7, 0xE]) ∧
    ((fieldUse op).a = false ↔ op.toNat ∉ [0x1, 0x2, 0x8]) ∧
    ((fieldUse op).b = false ↔ op.toNat ∉ [0x1, 0x2, 0x3, 0x5, 0x8, 0x9, 0xE]) := by decide

/-- Settles O3: R83's three items are the ways a word's fields are not legal. -/
theorem reservedWordsAreRefused : Obligations.ReservedWordsAreRefused := by
  intro s w rest hq
  obtain ⟨hch, ha, hb⟩ := fieldUse_eq_false_iff (opField w)
  have hbit : chField w = 1 ↔ chField w ≠ 0 := by generalize chField w = c; revert c; decide
  rw [step_eq_rsvd_iff hq, hbit, ← hch, ← ha, ← hb, FieldsLegal]
  simp only [not_and_or, Classical.not_imp, and_comm, ne_eq]

end Sys2Proof.Machine
end

section
/-! SUPPORT. The two checksums (40_checksum.md R122 to R134): what each frame check asks of the last byte, and that a change
of any one byte of a frame changes its CRC-8 and its seeded sum. Both are folds of a step that is injective in the
accumulator and in the byte, and the change of a byte survives every such fold. -/

namespace Sys2Proof.Machine

open Sys2Proof

/-! ### Folds of a step that is injective in each argument -/

section Folds

variable {σ β : Type} {f : σ → β → σ}

theorem foldl_injective_start (hacc : ∀ b, Function.Injective (f · b)) (l : List β) :
    Function.Injective fun s => l.foldl f s := by
  induction l with
  | nil => exact Function.injective_id
  | cons b l ih => exact ih.comp (hacc b)

/-- By induction on the list: the step at the byte is injective in the byte, and those after it in their start value. -/
theorem foldl_set_injective (hacc : ∀ b, Function.Injective (f · b)) (hbyte : ∀ a, Function.Injective (f a)) (s : σ)
    {l : List β} {i : Nat} (hi : i < l.length) : Function.Injective fun x => (l.set i x).foldl f s := by
  induction l generalizing s i with
  | nil => simp at hi
  | cons b l ih =>
    cases i with
    | zero => exact (foldl_injective_start hacc l).comp (hbyte s)
    | succ i => exact ih (f s b) (Nat.lt_of_succ_lt_succ hi)

/-- The change of one byte changes the fold. -/
theorem foldl_set_ne (hacc : ∀ b, Function.Injective (f · b)) (hbyte : ∀ a, Function.Injective (f a)) (s : σ)
    {l : List β} {i : Nat} (hi : i < l.length) {x : β} (hx : x ≠ l[i]) : (l.set i x).foldl f s ≠ l.foldl f s := by
  have hne := (foldl_set_injective hacc hbyte s hi).ne hx
  simpa only [List.set_getElem_self] using hne

end Folds

/-- A flipped bit makes another byte. -/
theorem xor_twoPow_ne_self (b : Byte) {k : Nat} (hk : k < 8) : b ^^^ BitVec.twoPow 8 k ≠ b := by
  intro h
  have hbit := congrArg (BitVec.getLsbD · k) h
  simp [hk] at hbit

/-! ### The CRC-8 table -/

/-- What one round adds to the shifted byte for the bit that left bit 7. -/
def crcFeedback (top : Bool) : Byte := if top then Config.crcPoly else 0

theorem crcFeedback_xor : ∀ x y, crcFeedback (x ^^ y) = crcFeedback x ^^^ crcFeedback y := by decide

theorem crcRound_eq (c : Byte) : crcRound c = c <<< 1 ^^^ crcFeedback c.msb := by
  cases h : c.msb <;> simp [crcRound, crcFeedback, h]

theorem crcRound_xor (u v : Byte) : crcRound (u ^^^ v) = crcRound u ^^^ crcRound v := by
  simp only [crcRound_eq, BitVec.msb_xor, BitVec.shiftLeft_xor_distrib, crcFeedback_xor]
  ac_rfl

/-- The polynomial's constant term is 1 (R131): the bit that leaves at the top comes back at the bottom. -/
theorem crcRound_getLsbD_zero (c : Byte) : (crcRound c).getLsbD 0 = c.msb := by
  cases h : c.msb <;> simp [crcRound_eq, crcFeedback, Config.crcPoly, h]

theorem crcRound_eq_zero {c : Byte} (h : crcRound c = 0) : c = 0 := by
  have hmsb : c.msb = false := by simpa [h] using (crcRound_getLsbD_zero c).symm
  have hshift : c <<< 1 = 0 := by simpa [crcRound_eq, crcFeedback, hmsb] using h
  rw [BitVec.msb_eq_false_iff_two_mul_lt] at hmsb
  bv_omega

theorem crcRound_injective : Function.Injective crcRound := by
  intro u v h
  rw [← BitVec.xor_eq_zero_iff] at h ⊢
  exact crcRound_eq_zero ((crcRound_xor u v).trans h)

theorem crcRounds_xor (n : Nat) (u v : Byte) : crcRounds n (u ^^^ v) = crcRounds n u ^^^ crcRounds n v := by
  induction n generalizing u v with
  | zero => rfl
  | succ n ih => simp only [crcRounds, crcRound_xor, ih]

theorem crcRounds_injective (n : Nat) : Function.Injective (crcRounds n) := by
  induction n with
  | zero => exact Function.injective_id
  | succ n ih => exact ih.comp crcRound_injective

theorem crcTable_xor (u v : Byte) : crcTable (u ^^^ v) = crcTable u ^^^ crcTable v := crcRounds_xor 8 u v

theorem crcTable_injective : Function.Injective crcTable := crcRounds_injective 8

theorem crcTable_zero : crcTable 0 = 0 := rfl

theorem crcTable_eq_zero_iff (c : Byte) : crcTable c = 0 ↔ c = 0 :=
  crcTable_injective.eq_iff' crcTable_zero

/-! ### The CRC-8 of a list -/

theorem crcStep_injective_acc (data : Byte) : Function.Injective (crcStep · data) :=
  crcTable_injective.comp fun _ _ h => (BitVec.xor_left_inj data).1 h

theorem crcStep_injective_data (acc : Byte) : Function.Injective (crcStep acc) :=
  crcTable_injective.comp fun _ _ h => (BitVec.xor_right_inj acc).1 h

theorem crcStep_xor (s t x y : Byte) : crcStep (s ^^^ t) (x ^^^ y) = crcStep s x ^^^ crcStep t y := by
  simp only [crcStep, crcTable_xor]
  ac_rfl

/-- The fold is linear in its start value and its bytes together; R131 takes `t` to be 0. -/
theorem crc8From_xor (s t : Byte) {a b : List Byte} (h : a.length = b.length) :
    crc8From (s ^^^ t) (List.zipWith (fun x y => x ^^^ y) a b) = crc8From s a ^^^ crc8From t b := by
  induction a generalizing s t b with
  | nil =>
    obtain rfl : b = [] := List.length_eq_zero_iff.1 h.symm
    rfl
  | cons x a ih =>
    cases b with
    | nil => simp at h
    | cons y b =>
      have hstep := ih (crcStep s x) (crcStep t y) (Nat.succ.inj h)
      rwa [← crcStep_xor] at hstep

theorem crc8_concat (p : List Byte) (x : Byte) : crc8 (p ++ [x]) = crcTable (crc8 p ^^^ x) :=
  List.foldl_concat crcStep _ x p

theorem crcCheck_concat (p : List Byte) (x : Byte) : crcCheck (p ++ [x]) = true ↔ x = crc8 p := by
  rw [crcCheck, beq_iff_eq, crc8_concat, crcTable_eq_zero_iff, eq_comm (a := x)]
  exact BitVec.xor_eq_zero_iff

/-- Every change of one byte of a valid frame is detected, of one bit or of more. -/
theorem crcCheck_set {l : List Byte} {i : Nat} (hi : i < l.length) {x : Byte} (hx : x ≠ l[i])
    (hvalid : crcCheck l = true) : crcCheck (l.set i x) = false := by
  have hne : crc8 (l.set i x) ≠ crc8 l := foldl_set_ne crcStep_injective_acc crcStep_injective_data _ hi hx
  simp only [crcCheck, beq_iff_eq, beq_eq_false_iff_ne] at hvalid ⊢
  rwa [hvalid] at hne

/-! ### The seeded sum of a list -/

theorem sumStep_toNat (acc data : Byte) : (sumStep acc data).toNat = (acc.toNat + data.toNat) % 256 :=
  BitVec.toNat_add acc data

theorem sumStep_injective_acc (data : Byte) : Function.Injective (sumStep · data) :=
  fun _ _ h => (BitVec.add_left_inj data).1 h

theorem sumStep_injective_data (acc : Byte) : Function.Injective (sumStep acc) :=
  fun _ _ h => (BitVec.add_right_inj acc).1 h

theorem sum8From_toNat (s : Byte) (l : List Byte) :
    (sum8From s l).toNat = (s.toNat + (l.map BitVec.toNat).sum) % 256 := by
  induction l generalizing s with
  | nil => exact (Nat.mod_eq_of_lt s.isLt).symm
  | cons b l ih =>
    calc (sum8From (sumStep s b) l).toNat
        = ((s.toNat + b.toNat) % 256 + (l.map BitVec.toNat).sum) % 256 := by rw [ih, sumStep_toNat]
      _ = (s.toNat + ((b :: l).map BitVec.toNat).sum) % 256 := by
          rw [Nat.mod_add_mod, List.map_cons, List.sum_cons, Nat.add_assoc]

/-- R132: the sync byte, summed from zero, gives the seed. -/
theorem sum8_eq_sum8From_zero (l : List Byte) : sum8 l = sum8From 0 (0x55 :: l) := rfl

theorem sumCheck_concat (p : List Byte) (x : Byte) : sumCheck (p ++ [x]) = true ↔ sum8 p = x := by
  simp [sumCheck]

/-- Every change of one byte of a valid frame is detected: one of the checksum byte leaves the sum, and one of a byte before
it leaves the checksum byte. -/
theorem sumCheck_set {l : List Byte} {i : Nat} (hi : i < l.length) {x : Byte} (hx : x ≠ l[i])
    (hvalid : sumCheck l = true) : sumCheck (l.set i x) = false := by
  obtain rfl | ⟨p, c, rfl⟩ := l.eq_nil_or_concat'
  · simp at hi
  obtain rfl := (sumCheck_concat p c).1 hvalid
  rw [Bool.eq_false_iff, Ne]
  obtain hlt | rfl : i < p.length ∨ i = p.length := by simp at hi; omega
  · rw [List.set_append_left i x hlt, sumCheck_concat]
    rw [List.getElem_append_left hlt] at hx
    exact foldl_set_ne sumStep_injective_acc sumStep_injective_data _ hlt hx
  · rw [List.set_append_right p.length x le_rfl, Nat.sub_self, List.set_cons_zero, sumCheck_concat]
    simpa [eq_comm] using hx

/-! ### The engine operations: each is done with one step of its fold -/

theorem exec_crcStep (acc data : Byte) (s : State) : exec (.crcStep acc data) s = done s (crcStep acc data) := rfl

theorem exec_sumStep (acc data : Byte) (s : State) : exec (.sumStep acc data) s = done s (sumStep acc data) := rfl

/-! ### The obligations -/

/-- Settles O13, from the table's injectivity and the CRC-8 of a list with one byte more. -/
theorem crcSelfCheck : Obligations.CrcSelfCheck :=
  ⟨Finite.injective_iff_bijective.1 crcTable_injective, crcTable_zero, fun p => (crcCheck_concat p (crcGen p)).2 rfl,
    crcCheck_concat⟩

/-- Settles O14: a flipped bit is a change of one byte. -/
theorem crcDetectsEverySingleBitError : Obligations.CrcDetectsEverySingleBitError := by
  refine ⟨crcTable_xor, fun s a b h => ?_, fun f i k hi hk => crcCheck_set hi (xor_twoPow_ne_self _ hk)⟩
  rw [← crc8From_xor s 0 h]
  exact congrArg (crc8From · _) BitVec.xor_zero.symm

/-- Settles O15, from the integer value of the fold, for the seed and for a sum from zero over the wire. -/
theorem sumIsTheIntegerSumModulo256 : Obligations.SumIsTheIntegerSumModulo256 :=
  ⟨sum8From_toNat, fun _ => rfl, rfl, fun p => ⟨sum8_eq_sum8From_zero p, sum8From_toNat Config.sumSeed p⟩⟩

/-- Settles O17: a flipped bit is a change of one byte. -/
theorem sumDetectsEverySingleBitError : Obligations.SumDetectsEverySingleBitError :=
  fun _ _ _ hi hk => sumCheck_set hi (xor_twoPow_ne_self _ hk)

/-- Settles O9: the result is the fold's step, whose definition is the table entry. -/
theorem crcStepDrivesTheTableEntry : Obligations.CrcStepDrivesTheTableEntry := by
  intro acc data s
  rw [exec_crcStep, crcStep, done, State.drive]

/-- Settles O10: the result is the fold's step, a sum of bytes that discards the carry. -/
theorem sumStepDrivesTheSum : Obligations.SumStepDrivesTheSum := by
  intro acc data s
  refine ⟨sumStep acc data, sumStep_toNat acc data, ?_⟩
  rw [exec_sumStep, done, State.drive]

/-- Settles O16: the check of a list with one byte more. -/
theorem sumCheckIsTheLastByte : Obligations.SumCheckIsTheLastByte := ⟨sumCheck_concat, fun _ => rfl⟩

end Sys2Proof.Machine
end

section
/-! SUPPORT. The parser's moves as equations (41_frame_parser.md R151 to R164), one for each branch, what each keeps, and
the operations on the published frame (R166 to R171). -/

namespace Sys2Proof.Machine

open Sys2Proof

/-! ### The operations of the parser, with the receiver on and off -/

/-- The state the statements write out is the model's: a channel replaced, the result driven. -/
theorem State.drive_setChan (s : State) (c : Channel) (k : Chan) (v : Byte) :
    (s.setChan c k).drive v = { s.setChan c k with r := v, draws := s.draws + 1 } := by
  rw [State.drive, State.setChan_draws]

section Receiver

variable {c : Channel} {s : State}

theorem exec_rxByte_on (hon : s.listening c = true) {b : Byte} {k : Chan}
    (hk : (s.chan c).receive c s.draws b = k) :
    exec (.rxByte c b) s = .next { s.setChan c k with r := 0, draws := s.draws + 1 } := by
  rw [← State.drive_setChan, ← hk]
  exact execRxByte_next.2 (.inl ⟨hon, rfl⟩)

theorem exec_rxByte_off (hoff : s.listening c = false) (b : Byte) : exec (.rxByte c b) s = .next (s.drive 0) :=
  execRxByte_next.2 (.inr ⟨hoff, rfl⟩)

theorem exec_rxBreak_on (hon : s.listening c = true) : exec (.rxBreak c) s = .next
    { s.setChan c ((s.chan c).lineBreak c) with r := 0, draws := s.draws + 1 } := by
  rw [← State.drive_setChan]
  exact execRxBreak_next.2 (.inl ⟨hon, rfl⟩)

theorem exec_rxBreak_off (hoff : s.listening c = false) : exec (.rxBreak c) s = .next (s.drive 0) :=
  execRxBreak_next.2 (.inr ⟨hoff, rfl⟩)

end Receiver

/-- R156: the BUS receiver is off exactly while the arbiter drives the bus. -/
theorem State.listening_bus_eq_false (s : State) :
    s.listening .bus = false ↔ s.ast = .txBreak ∨ s.ast = .txShift ∨ s.ast = .txDrain := by
  simp only [State.listening, State.rxEn, State.de, Bool.not_eq_false', Bool.or_eq_true, beq_iff_eq, or_assoc]

/-! ### One received byte, by the parser's state -/

/-- Below its width's bound a counter reaches a value exactly when its number does. -/
theorem Count.succ_eq_iff {n e : Count} (h : n.toNat < 31) : n + 1 = e ↔ n.toNat + 1 = e.toNat := by
  rw [← Count.toNat_succ h, BitVec.toNat_inj]

/-- The payload length that a length byte declares: BUS has it in the low nibble (R158), LINK in the byte, where 16 and
more are illegal (R153). -/
def declaredLength (c : Channel) (b : Byte) : Option Nat :=
  match c with
  | .bus => some (b.toNat % 16)
  | .link => if b.toNat < 16 then some b.toNat else none

theorem declaredLength_link_eq_some {b : Byte} (h : b.toNat < 16) : declaredLength .link b = some b.toNat := if_pos h

theorem declaredLength_link_eq_none {b : Byte} (h : 16 ≤ b.toNat) : declaredLength .link b = none := if_neg h.not_gt

theorem declaredLength_le {c : Channel} {b : Byte} {n : Nat} (h : declaredLength c b = some n) : n ≤ 15 := by
  cases c with
  | bus => simp only [declaredLength, Option.some.injEq] at h; omega
  | link => simp only [declaredLength, Option.ite_none_right_eq_some, Option.some.injEq] at h; omega

theorem lowNibble_toNat (b : Byte) : (b &&& 0x0F).toNat = b.toNat % 16 :=
  Nat.and_two_pow_sub_one_eq_mod b.toNat 4

namespace Chan

variable {k : Chan}

theorem receive_idle (hp : k.pst = .idle) (c : Channel) (draw : Nat) (b : Byte) :
    k.receive c draw b = k.idleByte c b := by
  simp only [Chan.receive, hp]

theorem receive_overflow (hp : k.pst ≠ .idle) (hcnt : 18 ≤ k.cnt.toNat) (c : Channel) (draw : Nat) (b : Byte) :
    k.receive c draw b = k.rearm := by
  cases hpst : k.pst with
  | idle => exact absurd hpst hp
  | headerCollecting | payloadCollecting => simp only [Chan.receive, hpst, Config.cap, hcnt, ↓reduceIte]

theorem receive_header (hp : k.pst = .headerCollecting) (hcnt : k.cnt.toNat < 18) (c : Channel) (draw : Nat)
    (b : Byte) : k.receive c draw b = k.header c b := by
  simp only [Chan.receive, hp, Config.cap, hcnt.not_ge, ↓reduceIte]

theorem receive_payload (hp : k.pst = .payloadCollecting) (hcnt : k.cnt.toNat < 18) (c : Channel) (draw : Nat)
    (b : Byte) : k.receive c draw b = k.payload c draw b := by
  simp only [Chan.receive, hp, Config.cap, hcnt.not_ge, ↓reduceIte]

/-- A header byte other than the second is stored (R153, R158). -/
theorem header_of_ne_two (hcnt : k.cnt.toNat < 18) (hne : k.cnt.toNat + 1 ≠ 2) (c : Channel) (b : Byte) :
    k.header c b = k.store b := by
  have hnot : k.cnt + 1 ≠ 2 := mt (Count.succ_eq_iff (by omega)).1 hne
  cases c with
  | bus => exact if_neg hnot
  | link => exact if_neg hnot

/-- The second header byte with a legal length: the payload follows (R153, R158). -/
theorem header_of_declared (htwo : k.cnt.toNat + 1 = 2) {c : Channel} {b : Byte} {n : Nat}
    (hlen : declaredLength c b = some n) : k.header c b = (k.store b).expect n := by
  have heq : (k.store b).cnt = 2 := (Count.succ_eq_iff (by omega)).2 htwo
  cases c with
  | bus =>
    obtain rfl : b.toNat % 16 = n := by simpa [declaredLength] using hlen
    rw [← lowNibble_toNat]
    exact if_pos heq
  | link =>
    obtain ⟨hlt, rfl⟩ : b.toNat < 16 ∧ b.toNat = n := by simpa [declaredLength] using hlen
    exact (if_pos heq).trans (if_neg hlt.not_ge)

/-- The second header byte with an illegal length, on LINK only: the frame is aborted (R153). -/
theorem header_of_undeclared (htwo : k.cnt.toNat + 1 = 2) {c : Channel} {b : Byte} (hlen : declaredLength c b = none) :
    k.header c b = (k.store b).rearm := by
  have heq : (k.store b).cnt = 2 := (Count.succ_eq_iff (by omega)).2 htwo
  cases c with
  | bus => simp [declaredLength] at hlen
  | link =>
    have hge : 16 ≤ b.toNat := by simpa [declaredLength] using hlen
    exact (if_pos heq).trans (if_pos hge)

/-- A header byte is stored at `CNT` whatever it is, and never touches the published frame. -/
theorem header_stores (hcnt : k.cnt.toNat < 18) (c : Channel) (b : Byte) :
    (k.header c b).frame = k.frame ∧ (k.header c b).flen = k.flen ∧ (k.header c b).rdy = k.rdy ∧
    ∀ i, Buf.read? (k.header c b).rxbuf i = if i = k.cnt.toNat then some b else Buf.read? k.rxbuf i := by
  by_cases htwo : k.cnt.toNat + 1 = 2
  · cases hlen : declaredLength c b with
    | none => rw [header_of_undeclared htwo hlen]; exact ⟨rfl, rfl, rfl, Buf.read?_write _ _ _⟩
    | some n => rw [header_of_declared htwo hlen]; exact ⟨rfl, rfl, rfl, Buf.read?_write _ _ _⟩
  · rw [header_of_ne_two hcnt htwo]
    exact ⟨rfl, rfl, rfl, Buf.read?_write _ _ _⟩

/-- `EXP` of a declared length: no wrap, since the length is at most 15. -/
theorem expect_exp_toNat (k : Chan) {c : Channel} {b : Byte} {n : Nat} (hlen : declaredLength c b = some n) :
    (k.expect n).exp.toNat = n + 3 := by
  have hle := declaredLength_le hlen
  exact Count.toNat_ofNat (n := n + Config.hdr) (by simp only [Config.hdr]; omega)

theorem payload_of_more (hcnt : k.cnt.toNat < 18) (hmore : k.cnt.toNat + 1 ≠ k.exp.toNat) (c : Channel) (draw : Nat)
    (b : Byte) : k.payload c draw b = k.store b :=
  if_neg (mt (Count.succ_eq_iff (by omega)).1 hmore)

theorem payload_of_last (hcnt : k.cnt.toNat < 18) (hlast : k.cnt.toNat + 1 = k.exp.toNat) (c : Channel) (draw : Nat)
    (b : Byte) : k.payload c draw b = (k.store b).complete c draw :=
  if_pos ((Count.succ_eq_iff (by omega)).2 hlast)

/-- R161, R171: while a published frame is not released, no byte changes it. -/
theorem receive_keeps_published (hrdy : k.rdy = true) (c : Channel) (draw : Nat) (b : Byte) :
    (k.receive c draw b).flen = k.flen ∧ (k.receive c draw b).frame = k.frame := by
  obtain ⟨-, hk⟩ | ⟨-, -, -, hk⟩ | ⟨-, -, hk⟩ | ⟨-, -, -, hk⟩ | ⟨-, -, -, -, -, hk⟩ | ⟨-, -, -, n, -, hk⟩ |
    ⟨-, -, -, hk⟩ | ⟨-, -, -, hk⟩ := Chan.receive_cases k c draw b
  case inr.inr.inr.inr.inr.inr.inr =>
    obtain ⟨-, hfree, -⟩ | ⟨-, hdrop⟩ := Chan.complete_cases (k.store b) c draw
    · simp [hrdy] at hfree
    · rw [hk, hdrop]; exact ⟨rfl, rfl⟩
  all_goals rw [hk]; exact ⟨rfl, rfl⟩

theorem lineBreak_keeps_published (k : Chan) (c : Channel) :
    (k.lineBreak c).flen = k.flen ∧ (k.lineBreak c).frame = k.frame := by
  cases c <;> exact ⟨rfl, rfl⟩

end Chan

/-! ### The collected bytes and completion (R160 to R162) -/

/-- The parser has collected the bytes `p`: `CNT` counts them, and they are `RXBUF`'s first bytes. -/
def Chan.Holds (k : Chan) (p : List Byte) : Prop :=
  k.cnt.toNat = p.length ∧ ∀ i < p.length, Buf.read? k.rxbuf i = p[i]?

theorem Chan.startFrame_holds (k : Chan) : k.startFrame.Holds [] := ⟨rfl, nofun⟩

theorem Chan.store_holds {k : Chan} {p : List Byte} (h : k.Holds p) (hcnt : p.length < 31) (b : Byte) :
    (k.store b).Holds (p ++ [b]) := by
  obtain ⟨hlen, hread⟩ := h
  have hstored : (k.store b).cnt.toNat = p.length + 1 := by rw [← hlen]; exact Count.toNat_succ (by omega)
  refine ⟨by rw [hstored, List.length_append, List.length_singleton], fun i hi => ?_⟩
  rw [Chan.store_rxbuf, Buf.read?_write, hlen]
  by_cases hlast : i = p.length
  · simp [hlast]
  · have hlt : i < p.length := by simp at hi; omega
    rw [if_neg hlast, hread i hlt, List.getElem?_append_left hlt]

/-- With all bytes collected no byte of the frame is drawn. -/
theorem Chan.collected_eq {k : Chan} {f : List Byte} (h : k.Holds f) (hexp : k.exp.toNat = f.length) (c : Channel)
    (draw : Nat) : k.collected c draw = f := by
  refine List.ext_getElem (by simp [Chan.collected, hexp]) fun i _ hi => ?_
  simp [Chan.collected, Buf.drawn, h.2 i hi, hi]

/-- A valid frame that finds `RDY` 0 is published: `FRAME` begins with its bytes, and the bytes above stay (R161). -/
theorem Chan.complete_publishes {k : Chan} {f : List Byte} (h : k.Holds f) (hexp : k.exp.toNat = f.length) {c : Channel}
    (hcheck : frameCheck c f = true) (hrdy : k.rdy = false) (draw : Nat) :
    (k.complete c draw).rdy = true ∧ (k.complete c draw).flen = k.exp ∧
    (∀ i < f.length, Buf.read? (k.complete c draw).frame i = f[i]?) ∧
    ∀ i ≥ f.length, Buf.read? (k.complete c draw).frame i = Buf.read? k.frame i := by
  obtain ⟨-, -, hk⟩ | ⟨hbad | hbusy, -⟩ := Chan.complete_cases k c draw
  · rw [hk]
    refine ⟨rfl, rfl, fun i hi => ?_, fun i hi => ?_⟩ <;> simp only [Buf.read?_copy, hexp]
    · rw [if_pos hi, h.2 i hi]
    · rw [if_neg hi.not_gt]
  · simp [Chan.collected_eq h hexp, hcheck] at hbad
  · simp [hrdy] at hbusy

/-- An invalid frame, and one that finds `RDY` 1, is dropped (R161, R162). -/
theorem Chan.complete_drops {k : Chan} {f : List Byte} (h : k.Holds f) (hexp : k.exp.toNat = f.length) {c : Channel}
    (hdrop : frameCheck c f = false ∨ k.rdy = true) (draw : Nat) : k.complete c draw = k.rearm := by
  obtain ⟨hvalid, hfree, -⟩ | ⟨-, hk⟩ := Chan.complete_cases k c draw
  · simp [← Chan.collected_eq h hexp c draw, hvalid, hfree] at hdrop
  · exact hk

/-- Completion leaves the parser in Idle, published or not, and what was collected stands. -/
theorem Chan.complete_rearms (k : Chan) (c : Channel) (draw : Nat) :
    (k.complete c draw).pst = .idle ∧ (k.complete c draw).cnt = 0 ∧ (k.complete c draw).exp = 0 ∧
    (k.complete c draw).rxbuf = k.rxbuf := by
  obtain ⟨-, -, hk⟩ | ⟨-, hk⟩ := Chan.complete_cases k c draw <;> rw [hk] <;> exact ⟨rfl, rfl, rfl, rfl⟩

/-! ### The published frame -/

theorem State.bufRead_of_byteAt {s : State} {sp : Space} {i : Nat} {x : Byte} (h : s.byteAt sp i = some x) :
    s.bufRead sp i = x := by
  rw [State.byteAt] at h
  simp [State.bufRead, Buf.drawn, h]

/-- R167's layout. -/
theorem Chan.infoByte_bits (k : Chan) : k.infoByte.getLsbD 7 = k.rdy ∧ k.infoByte.getLsbD 6 = false ∧
    k.infoByte.getLsbD 5 = false ∧ k.infoByte.extractLsb' 0 5 = k.flen := by
  have hbit (i : Nat) : k.infoByte.getLsbD i = if i < 5 then k.flen.getLsbD i
      else if i - 5 < 2 then (0 : BitVec 2).getLsbD (i - 5) else (BitVec.ofBool k.rdy).getLsbD (i - 5 - 2) := by
    simp only [Chan.infoByte, BitVec.getLsbD_append]
  exact ⟨(hbit 7).trans (by simp), (hbit 6).trans (by simp), (hbit 5).trans (by simp),
    BitVec.extractLsb'_append_eq_right⟩

/-! ### The invariant and the parser -/

theorem State.chan_inv {s : State} (h : s.Inv) (c : Channel) : (s.chan c).Inv := by
  obtain ⟨hbus, hlink, -⟩ := h
  cases c with
  | bus => exact hbus
  | link => exact hlink

/-- R163: the overflow guard never acts, since `CNT` is below `EXP`, which is at most 18. -/
theorem Chan.cnt_lt_cap {k : Chan} (h : k.Inv) : k.cnt.toNat < 18 := by
  obtain ⟨hidle, hheader, hpayload, -⟩ := h
  cases hp : k.pst with
  | idle => obtain ⟨hcnt, -⟩ := hidle hp; simp [hcnt]
  | headerCollecting => obtain ⟨hcnt, -⟩ := hheader hp; omega
  | payloadCollecting => obtain ⟨-, hexp, -, hcnt⟩ := hpayload hp; omega

/-- The invariant has the BUS parser in Idle while the arbiter drives the bus (R172). -/
theorem State.bus_idle_of_de {s : State} (h : s.Inv) (hde : s.de = true) : s.bus.pst = .idle := by
  obtain ⟨-, -, ⟨-, -, -, -, -, hdriving, -⟩, -⟩ := h
  exact (hdriving hde).2

/-- No operation takes the BUS parser out of Idle while the arbiter drives the bus: the receiver is off (R156). -/
theorem exec_keeps_bus_idle {i : Instr} {s t : State} (h : exec i s = .next t) (hde : s.de = true)
    (hidle : s.bus.pst = .idle) : t.bus.pst = .idle := by
  have hoff : s.listening .bus = false := by simp [State.listening, State.rxEn, hde]
  cases exec_effect h with
  | @received c _ hon | @lineBroken c hon =>
    cases c with
    | bus => simp [hoff] at hon
    | link => exact hidle
  | released c => cases c <;> exact hidle
  | started | reset => rfl
  | _ => exact hidle

/-! ### The obligations -/

/-- Settles O20, by the three outcomes of a LINK header byte. -/
theorem linkHeaderByte : Obligations.LinkHeaderByte := by
  intro b s hp hcnt
  refine ⟨s.link.header .link b, s.draws + 1,
    exec_rxByte_on (c := .link) rfl (Chan.receive_header hp hcnt _ _ _), ?_⟩
  obtain ⟨hframe, hflen, hrdy, hread⟩ := Chan.header_stores hcnt .link b
  refine ⟨hframe, hflen, hrdy, hread, fun hne => ?_, fun htwo hill => ?_, fun htwo hlt => ?_⟩
  · rw [Chan.header_of_ne_two hcnt hne]
    exact ⟨hp, Count.toNat_succ (by omega), rfl⟩
  · rw [Chan.header_of_undeclared htwo (declaredLength_link_eq_none hill)]
    exact ⟨rfl, rfl, rfl⟩
  · have hlen := declaredLength_link_eq_some hlt
    rw [Chan.header_of_declared htwo hlen]
    exact ⟨rfl, (Count.succ_eq_iff (by omega)).2 htwo, Chan.expect_exp_toNat _ hlen⟩

/-- Settles O21, by the two outcomes of a BUS header byte. -/
theorem busHeaderByte : Obligations.BusHeaderByte := by
  intro b s hon hp hcnt
  refine ⟨s.bus.header .bus b, s.draws + 1,
    exec_rxByte_on (c := .bus) hon (Chan.receive_header hp hcnt _ _ _), ?_⟩
  obtain ⟨hframe, hflen, hrdy, hread⟩ := Chan.header_stores hcnt .bus b
  refine ⟨hframe, hflen, hrdy, hread, fun hne => ?_, fun htwo => ?_⟩
  · rw [Chan.header_of_ne_two hcnt hne]
    exact ⟨hp, Count.toNat_succ (by omega), rfl⟩
  · have hlen : declaredLength .bus b = some (b.toNat % 16) := rfl
    rw [Chan.header_of_declared htwo hlen]
    exact ⟨rfl, (Count.succ_eq_iff (by omega)).2 htwo, Chan.expect_exp_toNat _ hlen⟩

/-- Settles O22: a payload byte before the last is stored. -/
theorem payloadByteIsCollected : Obligations.PayloadByteIsCollected := by
  intro c b s hon hp hcnt hmore
  have hk := (Chan.receive_payload hp hcnt c s.draws b).trans (Chan.payload_of_more hcnt hmore c s.draws b)
  exact ⟨(s.chan c).store b, exec_rxByte_on hon hk, hp, Count.toNat_succ (by omega), rfl, rfl, rfl, rfl,
    Buf.read?_write _ _ _⟩

/-- Settles O23: with the last byte stored the parser holds the whole frame, and completion publishes or drops it. -/
theorem completedFrameIsCheckedAndPublished : Obligations.CompletedFrameIsCheckedAndPublished := by
  intro c b f s hon hp hcnt hlen hread hlast
  have hholds : ((s.chan c).store b).Holds (f ++ [b]) := Chan.store_holds ⟨hlen.symm, hread⟩ (by omega) b
  have hexp : ((s.chan c).store b).exp.toNat = (f ++ [b]).length := by simp [← hlast, hlen]
  obtain ⟨hpst, hzero, hnone, hrxbuf⟩ := ((s.chan c).store b).complete_rearms c s.draws
  have hk := (Chan.receive_payload hp hcnt c s.draws b).trans (Chan.payload_of_last hcnt hlast c s.draws b)
  refine ⟨_, exec_rxByte_on hon hk, hpst, hzero, hnone, ?_, fun hcheck hrdy => ?_, fun hdrop => ?_⟩
  · rw [hrxbuf]
    exact Buf.read?_write _ _ _
  · obtain ⟨hset, hflen, hbytes, habove⟩ := Chan.complete_publishes hholds hexp hcheck hrdy s.draws
    simp only [List.length_append, List.length_singleton] at hbytes habove
    exact ⟨hset, hflen, fun i hi => hbytes i (by omega), fun i hi => habove i hi⟩
  · rw [Chan.complete_drops hholds hexp hdrop]
    exact ⟨rfl, rfl, rfl⟩

/-- Settles O33, by what an operation does to a channel: only FRM_RELEASE and RESET clear `RDY`, and a parser event publishes
nothing over a frame that is ready. -/
theorem publishedFrameStaysUntilReleased : Obligations.PublishedFrameStaysUntilReleased := by
  intro i c s t hrdy h hrelease hreset
  suffices hkept : (t.chan c).rdy = true ∧
      (t.chan c).flen = (s.chan c).flen ∧ (t.chan c).frame = (s.chan c).frame by
    obtain ⟨hset, hflen, hframe⟩ := hkept
    exact ⟨hset, hflen, fun j => congrArg (Buf.read? · j) hframe⟩
  obtain hc | ⟨b, -, hc⟩ | ⟨-, hc⟩ | ⟨hi, -⟩ | ⟨-, -, hc⟩ | ⟨hi, -⟩ := exec_chan_cases h c
  · rw [hc]; exact ⟨hrdy, rfl, rfl⟩
  · rw [hc]; exact ⟨Chan.receive_keeps_rdy hrdy c s.draws b, Chan.receive_keeps_published hrdy c s.draws b⟩
  · rw [hc]; exact ⟨(Chan.lineBreak_rdy _ _).trans hrdy, Chan.lineBreak_keeps_published _ _⟩
  · exact absurd hi hrelease
  · rw [hc]; exact ⟨hrdy, rfl, rfl⟩
  · exact absurd hi hreset

/-- Settles O48: the parser is in Idle by the invariant after the operation, or by the one before it and the receiver that is
off; the invariant then gives Idle's counters. -/
theorem busParserIsIdleWhileTransmitting : Obligations.BusParserIsIdleWhileTransmitting := by
  intro i s t hs h hde
  have ht := exec_keeps_inv h hs
  have hidle : t.bus.pst = .idle := by
    obtain hbefore | hafter := hde
    · exact exec_keeps_bus_idle h hbefore (State.bus_idle_of_de hs hbefore)
    · exact State.bus_idle_of_de ht hafter
  obtain ⟨⟨hcounters, -⟩, -⟩ := ht
  exact ⟨hidle, hcounters hidle⟩

/-- Settles O18: a receiver that is off leaves the channel as it is. -/
theorem rxByteAlwaysCompletes : Obligations.RxByteAlwaysCompletes := by
  intro c b s
  cases hon : s.listening c with
  | true => exact ⟨_, exec_rxByte_on hon rfl⟩
  | false =>
    refine ⟨s.chan c, ?_⟩
    rw [exec_rxByte_off hon, State.setChan_self, State.drive]

/-- Settles O19, by the two branches of a byte in LINK Idle. -/
theorem linkIdleWaitsForSync : Obligations.LinkIdleWaitsForSync := by
  intro b s hp
  have hk := Chan.receive_idle hp .link s.draws b
  exact ⟨fun hsync => ⟨_, exec_rxByte_on (c := .link) rfl (hk.trans (if_pos hsync))⟩,
    fun hother => ⟨_, exec_rxByte_on (c := .link) rfl (hk.trans (if_neg hother))⟩⟩

/-- Settles O24: in the three transmitting states the BUS receiver is off. -/
theorem busReceiverIsOffWhileTransmitting : Obligations.BusReceiverIsOffWhileTransmitting := by
  intro s hast
  have hoff := s.listening_bus_eq_false.2 hast
  exact ⟨fun b => ⟨_, exec_rxByte_off hoff b⟩, _, exec_rxBreak_off hoff⟩

/-- Settles O25: BUS has no move for a byte in Idle. -/
theorem busIdleIgnoresBytes : Obligations.BusIdleIgnoresBytes :=
  fun b _ hon hp => ⟨_, exec_rxByte_on (c := .bus) hon (Chan.receive_idle hp .bus _ b)⟩

/-- Settles O26: the guard's branch, and the invariant's bound on `CNT`. -/
theorem overflowResetsTheParser : Obligations.OverflowResetsTheParser :=
  ⟨fun c b _ hon hp hcnt => exec_rxByte_on hon (Chan.receive_overflow hp hcnt c _ b),
    fun c _ hs => Chan.cnt_lt_cap (State.chan_inv hs c)⟩

/-- Settles O27, channel by channel. -/
theorem lineBreakRestartsTheParser : Obligations.LineBreakRestartsTheParser :=
  ⟨fun _ hon => exec_rxBreak_on (c := .bus) hon, fun _ => exec_rxBreak_on (c := .link) rfl⟩

/-- Settles O28: the read of a written byte draws nothing. -/
theorem frmReadGivesThePublishedByte : Obligations.FrmReadGivesThePublishedByte :=
  fun _ _ _ hidx => ⟨_, execFrmRead_next.2 ⟨hidx, rfl⟩, fun _ => State.bufRead_of_byteAt⟩

/-- Settles O29, from the layout of the info byte. -/
theorem frmInfoGivesReadyAndLength : Obligations.FrmInfoGivesReadyAndLength :=
  fun c s => ⟨(s.chan c).infoByte, rfl, (s.chan c).infoByte_bits⟩

/-- Settles O30: FRM_RELEASE is the clearing of its channel's flag. -/
theorem frmReleaseClearsReady : Obligations.FrmReleaseClearsReady := by
  intro c s
  exact congrArg Host.Outcome.next (s.drive_setChan c (s.chan c).clearRdy 0)

end Sys2Proof.Machine
end

section
/-! SUPPORT. A whole frame received byte by byte (41_frame_parser.md R169, R170): from a frame start, the bytes of a
well-formed frame are collected, checked, and published or dropped, on both channels by one argument. -/

namespace Sys2Proof.Machine

open Sys2Proof

/-! ### A list of received bytes -/

/-- The channel after a list of received bytes; each is an operation with a draw number of its own. -/
def Chan.receiveAll (k : Chan) (c : Channel) (draw : Nat) : List Byte → Chan
  | [] => k
  | b :: rest => (k.receive c draw b).receiveAll c (draw + 1) rest

section Sequence

variable {c : Channel}

theorem State.listening_drive_setChan (s : State) (k : Chan) (v : Byte) :
    ((s.setChan c k).drive v).listening c = s.listening c := by
  cases c <;> rfl

/-- Of two writes of a channel the later one stands. -/
theorem State.setChan_drive_setChan (s : State) (k k' : Chan) (v w : Byte) (draw : Nat) :
    { ((s.setChan c k).drive v).setChan c k' with r := w, draws := draw } =
      { s.setChan c k' with r := w, draws := draw } := by
  cases c <;> rfl

/-- A list of RX_BYTE with the receiver on, after an operation that left `k` in the channel. -/
theorem runOps_rxBytes (l : List Byte) {s : State} (hon : s.listening c = true) (k : Chan) :
    runOps (l.map (Instr.rxByte c)) ((s.setChan c k).drive 0) = .next
      { s.setChan c (k.receiveAll c (s.draws + 1) l) with r := 0, draws := s.draws + (l.length + 1) } := by
  induction l generalizing s k with
  | nil => exact congrArg Host.Outcome.next (s.drive_setChan c k 0)
  | cons b rest ih =>
    have hon' := (s.listening_drive_setChan k 0).trans hon
    refine runOps_cons_next.2 ⟨_, execRxByte_next.2 (.inl ⟨hon', rfl⟩), (ih hon' _).trans ?_⟩
    have hcount : s.draws + 1 + (rest.length + 1) = s.draws + (rest.length + 1 + 1) := by omega
    rw [State.setChan_drive_setChan, Chan.receiveAll, State.drive_chan, State.chan_setChan_same, State.drive_draws,
      State.setChan_draws, List.length_cons, hcount]

end Sequence

/-! ### The payload -/

/-- `k'` is a channel that has taken the valid frame `f` from a frame start in `k`: Idle and ready, with `f` published, or
dropped if `k` was ready (R161). -/
def Chan.Accepted (k : Chan) (f : List Byte) (k' : Chan) : Prop :=
  k'.pst = .idle ∧ k'.cnt = 0 ∧ k'.exp = 0 ∧ k'.rdy = true ∧
  (k.rdy = false → k'.flen.toNat = f.length ∧ ∀ i < f.length, Buf.read? k'.frame i = f[i]?) ∧
  (k.rdy = true → k'.flen = k.flen ∧ k'.frame = k.frame)

theorem Chan.complete_accepted {k : Chan} {f : List Byte} (h : k.Holds f) (hexp : k.exp.toNat = f.length) {c : Channel}
    (hcheck : frameCheck c f = true) (draw : Nat) : k.Accepted f (k.complete c draw) := by
  obtain ⟨hpst, hcnt, hzero, -⟩ := k.complete_rearms c draw
  cases hrdy : k.rdy with
  | false =>
    obtain ⟨hset, hflen, hbytes, -⟩ := Chan.complete_publishes h hexp hcheck hrdy draw
    exact ⟨hpst, hcnt, hzero, hset, fun _ => ⟨by rw [hflen, hexp], hbytes⟩, by simp [hrdy]⟩
  | true =>
    rw [Chan.complete_drops h hexp (.inr hrdy)]
    exact ⟨rfl, rfl, rfl, hrdy, by simp [hrdy], fun _ => ⟨rfl, rfl⟩⟩

/-- By induction on the bytes to come: each is stored, and the last completes the frame (R154, R159). -/
theorem Chan.receiveAll_payload {c : Channel} {rest : List Byte} (hrest : rest ≠ []) {k : Chan} {p : List Byte}
    (hp : k.pst = .payloadCollecting) (h : k.Holds p) (hexp : k.exp.toNat = (p ++ rest).length)
    (hcap : k.exp.toNat ≤ 18) (hcheck : frameCheck c (p ++ rest) = true) (draw : Nat) :
    k.Accepted (p ++ rest) (k.receiveAll c draw rest) := by
  induction rest generalizing k p draw with
  | nil => exact absurd rfl hrest
  | cons b rest ih =>
    have hcnt : k.cnt.toNat = p.length := h.1
    have hleft : k.exp.toNat = k.cnt.toNat + 1 + rest.length := by
      rw [hexp, hcnt, List.length_append, List.length_cons]; omega
    have hstored := Chan.store_holds h (by omega) b
    rw [List.append_cons] at hexp hcheck ⊢
    rw [Chan.receiveAll, Chan.receive_payload hp (by omega)]
    by_cases hlast : rest = []
    · subst hlast
      rw [List.append_nil] at hexp hcheck ⊢
      rw [Chan.payload_of_last (by omega) hleft.symm]
      exact Chan.complete_accepted (k := k.store b) hstored hexp hcheck draw
    · have hmore := List.length_pos_iff.2 hlast
      rw [Chan.payload_of_more (by omega) (by omega)]
      exact ih hlast (k := k.store b) hp hstored hexp hcap hcheck (draw + 1)

/-! ### The frame -/

/-- A valid frame of a channel as the parser meets it: two header bytes, the second of which declares the payload, then the
payload and a check byte that fits. -/
def ValidFrame (c : Channel) (f : List Byte) : Prop :=
  ∃ a l n rest, f = a :: l :: rest ∧ declaredLength c l = some n ∧ rest.length = n + 1 ∧ frameCheck c f = true

theorem validFrame_of_busWellFormed {f : List Byte} (h : busWellFormed f = true) : ValidFrame .bus f := by
  match f, h with
  | a :: l :: rest, h =>
    rw [busWellFormed, Bool.and_eq_true, decide_eq_true_eq] at h
    obtain ⟨hlen, hcheck⟩ := h
    rw [busExpected, lowNibble_toNat, Config.hdr, List.length_cons, List.length_cons] at hlen
    exact ⟨a, l, _, rest, rfl, rfl, by omega, hcheck⟩

theorem validFrame_of_linkWellFormed {f : List Byte} (h : linkWellFormed f = true) : ValidFrame .link f := by
  match f, h with
  | a :: l :: rest, h =>
    rw [linkWellFormed, Bool.and_eq_true, decide_eq_true_eq] at h
    obtain ⟨hlen, hcheck⟩ := h
    rw [linkExpected, Option.ite_none_right_eq_some, Option.some.injEq, Config.hdr, List.length_cons,
      List.length_cons] at hlen
    obtain ⟨hlegal, hlen⟩ := hlen
    rw [Config.maxLen] at hlegal
    exact ⟨a, l, _, rest, rfl, declaredLength_link_eq_some (by omega), by omega, hcheck⟩

/-- The two header bytes after a frame start leave the payload's length in `EXP`, and the rest is the payload. -/
theorem Chan.receiveAll_frame (k : Chan) {c : Channel} {f : List Byte} (hf : ValidFrame c f) (draw : Nat) :
    k.Accepted f (k.startFrame.receiveAll c draw f) := by
  obtain ⟨a, l, n, rest, rfl, hlen, hrest, hcheck⟩ := hf
  have hle := declaredLength_le hlen
  have hzero : k.startFrame.cnt.toNat = 0 := rfl
  have hone : (k.startFrame.store a).cnt.toNat = 1 := rfl
  have hfirst : k.startFrame.receive c draw a = k.startFrame.store a :=
    (Chan.receive_header rfl (by omega) c draw a).trans (Chan.header_of_ne_two (by omega) (by omega) c a)
  have hsecond : (k.startFrame.store a).receive c (draw + 1) l = ((k.startFrame.store a).store l).expect n :=
    (Chan.receive_header rfl (by omega) c _ l).trans (Chan.header_of_declared (by omega) hlen)
  have hholds : (((k.startFrame.store a).store l).expect n).Holds [a, l] :=
    Chan.store_holds (Chan.store_holds k.startFrame_holds (by simp) a) (by simp) l
  have hexp := ((k.startFrame.store a).store l).expect_exp_toNat hlen
  have hall : n + 3 = ([a, l] ++ rest).length := by simp [hrest]
  rw [Chan.receiveAll, hfirst, Chan.receiveAll, hsecond]
  exact Chan.receiveAll_payload (p := [a, l]) (List.ne_nil_of_length_eq_add_one hrest) rfl hholds (hexp.trans hall)
    (by omega) hcheck (draw + 2)

/-- After any operation that starts a frame the bytes of a valid frame are performed and accepted. -/
theorem runOps_frame {i : Instr} {c : Channel} {s : State} {f : List Byte} (hon : s.listening c = true)
    (hstart : exec i s = .next ((s.setChan c (s.chan c).startFrame).drive 0)) (hf : ValidFrame c f) :
    ∃ k, runOps (i :: f.map (Instr.rxByte c)) s = .next
        { s.setChan c k with r := 0, draws := s.draws + (f.length + 1) } ∧ (s.chan c).Accepted f k :=
  ⟨_, runOps_cons_next.2 ⟨_, hstart, runOps_rxBytes f hon _⟩, (s.chan c).receiveAll_frame hf (s.draws + 1)⟩

/-! ### The obligations -/

/-- Settles O31: on BUS it is the break that starts a frame. -/
theorem busResynchronizes : Obligations.BusResynchronizes :=
  fun _ _ hon hwf => runOps_frame (c := .bus) hon (execRxBreak_next.2 (.inl ⟨hon, rfl⟩))
    (validFrame_of_busWellFormed hwf)

/-- Settles O32: on LINK in Idle it is the sync byte that starts a frame. -/
theorem linkResynchronizesFromIdle : Obligations.LinkResynchronizesFromIdle := by
  intro f s hp hwf
  have hk : s.link.receive .link s.draws Config.sync = s.link.startFrame := Chan.receive_idle hp _ _ _
  have hstart := execRxByte_next.2 (.inl ⟨rfl, congrArg (fun k => (s.setChan .link k).drive 0) hk⟩)
  exact runOps_frame (c := .link) rfl hstart (validFrame_of_linkWellFormed hwf)

end Sys2Proof.Machine
end

section
/-! SUPPORT. The arbiter's operations as equations (42_arbiter.md R190 to R203), one for each row of its table, and the
outputs in each of its states (10_state.md R36). -/

namespace Sys2Proof.Machine

open Sys2Proof

/-! ### Counters and copies -/

/-- `DLY` above 1 is not zero after a TICK, so no transmission starts. -/
theorem dly_sub_one_ne_zero {d : BitVec 8} (h : 2 ≤ d.toNat) : d - 1 ≠ 0 := by
  bv_omega

theorem dly_sub_one_toNat {d : BitVec 8} (h : 1 ≤ d.toNat) : (d - 1).toNat = d.toNat - 1 := by
  bv_omega

theorem dly_sub_one_eq_zero {d : BitVec 8} (h : d.toNat = 1) : d - 1 = 0 := by
  bv_omega

/-- A counter below another one can count one up. -/
theorem Count.lt_max_of_lt {c d : Count} (h : c.toNat < d.toNat) : c.toNat < 31 := by
  have := d.isLt
  omega

theorem Buf.read?_copy_lt {n i : Nat} (h : i < n) (src dst : Buf) :
    Buf.read? (Buf.copy n src dst) i = Buf.read? src i := by
  rw [Buf.read?_copy, if_pos h]

theorem Buf.read?_copy_ge {n i : Nat} (h : i ≥ n) (src dst : Buf) :
    Buf.read? (Buf.copy n src dst) i = Buf.read? dst i := by
  rw [Buf.read?_copy, if_neg h.not_gt]

/-! ### The outputs, by the arbiter's state -/

section Outputs

variable {s : State}

/-- Out of the three transmitting states the driver is off and the receiver on. -/
theorem State.pins_of_receiving (h : s.ast = .listen ∨ s.ast = .pending) : s.pins = ⟨true, false, false⟩ := by
  obtain h | h := h <;> simp [State.pins, State.rxEn, State.de, State.brk, h]

theorem State.pins_of_txBreak (h : s.ast = .txBreak) : s.pins = ⟨false, true, true⟩ := by
  simp [State.pins, State.rxEn, State.de, State.brk, h]

theorem State.pins_of_txDrain (h : s.ast = .txDrain) : s.pins = ⟨false, true, false⟩ := by
  simp [State.pins, State.rxEn, State.de, State.brk, h]

theorem State.de_of_receiving (h : s.ast = .listen ∨ s.ast = .pending) : s.de = false :=
  congrArg Pins.de (State.pins_of_receiving h)

theorem State.rxEn_of_receiving (h : s.ast = .listen ∨ s.ast = .pending) : s.rxEn = true :=
  congrArg Pins.rxEn (State.pins_of_receiving h)

/-- In TX_SHIFT the byte offered is `TXBUF[TXIDX]`. -/
theorem State.txData_of_txShift (h : s.ast = .txShift) {v : Byte} (hv : s.byteAt .txbuf s.txidx.toNat = some v) :
    s.txData = v := by
  have hvalid : s.txValid = true := by simp [State.txValid, h]
  rw [State.txData, if_pos hvalid, State.bufRead_of_byteAt hv]

theorem State.txData_of_not_txValid (h : s.txValid = false) : s.txData = 0 := by
  simp [State.txData, h]

end Outputs

/-! ### The operations, by the arbiter's state -/

section Operations

variable {s : State}

theorem exec_txQueue_pending {len : Byte} (hlo : 1 ≤ len.toNat) (hhi : len.toNat ≤ 18) (hpend : s.pend = true) :
    exec (.txQueue len) s = .next (s.drive 0) :=
  execTxQueue_next.2 ⟨⟨hlo, hhi⟩, .inl ⟨hpend, rfl⟩⟩

theorem exec_txQueue_listening {len : Byte} (hlo : 1 ≤ len.toNat) (hhi : len.toNat ≤ 18) (hfree : s.pend = false)
    (hast : s.ast = .listen) :
    exec (.txQueue len) s = .next ((s.loadPending len.toNat).enterPending.drive 1) :=
  execTxQueue_next.2 ⟨⟨hlo, hhi⟩, .inr (.inl ⟨hfree, hast, rfl⟩)⟩

theorem exec_txQueue_busy {len : Byte} (hlo : 1 ≤ len.toNat) (hhi : len.toNat ≤ 18) (hfree : s.pend = false)
    (hast : s.ast ≠ .listen) : exec (.txQueue len) s = .next ((s.loadPending len.toNat).drive 1) :=
  execTxQueue_next.2 ⟨⟨hlo, hhi⟩, .inr (.inr ⟨hfree, hast, rfl⟩)⟩

theorem exec_tick_outside_pending (hast : s.ast ≠ .pending) : exec .tick s = .next (s.drive 0) :=
  execTick_next.2 (.inl ⟨hast, rfl⟩)

theorem exec_tick_counts (hast : s.ast = .pending) (hdly : 2 ≤ s.dly.toNat) :
    exec .tick s = .next (s.countDown.drive 0) :=
  execTick_next.2 (.inr (.inl ⟨hast, dly_sub_one_ne_zero hdly, rfl⟩))

/-- The last TICK of a countdown leaves `DLY` zero. -/
theorem State.countDown_of_one (hdly : s.dly.toNat = 1) : s.countDown = { s with dly := 0 } := by
  rw [State.countDown, dly_sub_one_eq_zero hdly]

theorem exec_tick_starts (hast : s.ast = .pending) (hdly : s.dly.toNat = 1) (hpend : s.pend = true)
    (hlen : s.plen.toNat ≤ 18) : exec .tick s = .next (({ s with dly := 0 } : State).beginTx.drive 0) := by
  rw [← State.countDown_of_one hdly]
  exact execTick_next.2 (.inr (.inr (.inr ⟨hast, dly_sub_one_eq_zero hdly, hpend, hlen, rfl⟩)))

theorem exec_tick_listens (hast : s.ast = .pending) (hdly : s.dly.toNat = 1) (hfree : s.pend = false) :
    exec .tick s = .next (({ s with dly := 0, ast := .listen } : State).drive 0) := by
  have hexec : exec .tick s = .next (({ s.countDown with ast := .listen } : State).drive 0) :=
    execTick_next.2 (.inr (.inr (.inl ⟨hast, dly_sub_one_eq_zero hdly, hfree, rfl⟩)))
  rwa [State.countDown_of_one hdly] at hexec

theorem exec_txBreakDone (hast : s.ast = .txBreak) :
    exec .txBreakDone s = .next (({ s with txidx := 0, ast := .txShift } : State).drive 0) :=
  execTxBreakDone_next.2 ⟨hast, rfl⟩

theorem exec_txByteDone_last (hast : s.ast = .txShift) (hlast : s.txidx.toNat + 1 = s.txlen.toNat) :
    exec .txByteDone s = .next (({ s with txidx := s.txlen, ast := .txDrain } : State).drive 0) := by
  have heq : s.txidx + 1 = s.txlen := (Count.succ_eq_iff (Count.lt_max_of_lt (Nat.lt_of_succ_le hlast.le))).2 hlast
  have hexec : exec .txByteDone s = .next (({ s with txidx := s.txidx + 1, ast := .txDrain } : State).drive 0) :=
    execTxByteDone_next.2 ⟨hast, .inl ⟨heq, rfl⟩⟩
  rwa [heq] at hexec

theorem exec_txByteDone_more (hast : s.ast = .txShift) (hmore : s.txidx.toNat + 1 < s.txlen.toNat) :
    exec .txByteDone s = .next (({ s with txidx := s.txidx + 1 } : State).drive 0) := by
  have hne : s.txidx + 1 ≠ s.txlen :=
    mt (Count.succ_eq_iff (Count.lt_max_of_lt (Nat.lt_of_succ_lt hmore))).1 hmore.ne
  exact execTxByteDone_next.2 ⟨hast, .inr ⟨hne, rfl⟩⟩

theorem exec_txIdle_free (hast : s.ast = .txDrain) (hfree : s.pend = false) :
    exec .txIdle s = .next (({ s with ast := .listen } : State).drive 0) :=
  execTxIdle_next.2 ⟨hast, .inr ⟨hfree, rfl⟩⟩

theorem exec_txIdle_pending (hast : s.ast = .txDrain) (hpend : s.pend = true) :
    exec .txIdle s = .next (s.enterPending.drive 0) :=
  execTxIdle_next.2 ⟨hast, .inl ⟨hpend, rfl⟩⟩

end Operations

/-! ### The operations under the invariant -/

section Invariant

variable {s t : State}

theorem State.pend_of_listen (hs : s.Inv) (hast : s.ast = .listen) : s.pend = false := by
  obtain ⟨-, -, ⟨hlisten, -⟩, -⟩ := hs
  exact hlisten hast

/-- In PENDING a response of at most 18 bytes is pending, with `DLY` above zero. -/
theorem State.pending_of_inv (hs : s.Inv) (hast : s.ast = .pending) :
    s.pend = true ∧ 1 ≤ s.dly.toNat ∧ s.plen.toNat ≤ 18 := by
  obtain ⟨-, -, harb, -⟩ := hs
  obtain ⟨hregs, hphase⟩ := (State.arbiterInv_iff s).1 harb
  obtain ⟨hpend, hdly⟩ := (State.phaseInv_pending hast).1 hphase
  exact ⟨hpend, hdly, State.plen_le_cap hregs⟩

/-- In LISTEN the slot is free, so a TX_QUEUE that is performed is accepted. -/
theorem exec_txQueue_of_listen (hs : s.Inv) (hast : s.ast = .listen) {len : Byte}
    (h : exec (.txQueue len) s = .next t) :
    len.toNat ≤ 18 ∧ t = (s.loadPending len.toNat).enterPending.drive 1 := by
  obtain ⟨⟨hlo, hhi⟩, -⟩ := execTxQueue_next.1 h
  cases (exec_txQueue_listening hlo hhi (State.pend_of_listen hs hast) hast).symm.trans h
  exact ⟨hhi, rfl⟩

end Invariant

/-- `AST` changes only in a row of R190's table. -/
theorem exec_ast_cases {i : Instr} {s t : State} (h : exec i s = .next t) :
    t.ast = s.ast ∨ i = .reset ∨ (s.ast = .listen ∧ ∃ len, i = .txQueue len) ∨ (s.ast = .pending ∧ i = .tick) ∨
      (s.ast = .txBreak ∧ i = .txBreakDone) ∨ (s.ast = .txShift ∧ i = .txByteDone) ∨
      (s.ast = .txDrain ∧ i = .txIdle) := by
  cases exec_effect h with
  | received | lineBroken | released => exact .inl (State.setChan_ast _ _ _)
  | answer | staged | queuedBusy | counted | byteTaken => exact .inl rfl
  | reset => exact .inr (.inl rfl)
  | @queuedListening len _ _ _ hast => exact .inr (.inr (.inl ⟨hast, len, rfl⟩))
  | elapsedFree hast | started hast | breakEnded hast | lastByteTaken hast | drainedPending hast | drainedFree hast =>
    simp [hast]

/-! ### The obligations -/

/-- Settles O35: each row by its operation's equation, and the last clause by `exec_ast_cases`. -/
theorem arbiterFollowsItsTable : Obligations.ArbiterFollowsItsTable := by
  intro i s t hs h
  refine ⟨?listen, ?counts, ?starts, ?breakDone, ?byteDone, ?lastByte, ?idle, ?idlePending, ?reset,
    (exec_ast_cases h).resolve_left⟩
  case listen =>
    rintro hast len rfl
    obtain ⟨-, rfl⟩ := exec_txQueue_of_listen hs hast h
    exact ⟨rfl, rfl⟩
  case counts =>
    rintro hast rfl hmore
    cases (exec_tick_counts hast (by omega)).symm.trans h
    exact ⟨hast, dly_sub_one_toNat (by omega)⟩
  case starts =>
    rintro hast rfl hlast
    obtain ⟨hpend, hdly, hlen⟩ := State.pending_of_inv hs hast
    cases (exec_tick_starts hast (by omega) hpend hlen).symm.trans h
    rfl
  case breakDone =>
    rintro hast rfl
    cases (exec_txBreakDone hast).symm.trans h
    exact ⟨rfl, rfl⟩
  case byteDone =>
    rintro hast rfl hmore
    cases (exec_txByteDone_more hast hmore).symm.trans h
    exact ⟨hast, Count.toNat_succ (Count.lt_max_of_lt (Nat.lt_of_succ_lt hmore))⟩
  case lastByte =>
    rintro hast rfl hlast
    cases (exec_txByteDone_last hast hlast).symm.trans h
    rfl
  case idle =>
    rintro hast rfl hfree
    cases (exec_txIdle_free hast hfree).symm.trans h
    rfl
  case idlePending =>
    rintro hast rfl hpend
    cases (exec_txIdle_pending hast hpend).symm.trans h
    exact ⟨rfl, rfl⟩
  case reset =>
    rintro rfl
    obtain rfl := (done_eq_next _ _ _).1 h
    rfl

/-- Settles O37: the accepted response is a copy of the staged bytes, in LISTEN and in every other state. -/
theorem txQueueFillsTheFreeSlot : Obligations.TxQueueFillsTheFreeSlot :=
  fun len s hlo hhi hfree => ⟨Buf.copy len.toNat s.stg s.pbuf, BitVec.ofNat 5 len.toNat, Count.toNat_ofNat (by omega),
    fun _ hi => Buf.read?_copy_lt hi _ _, fun _ hi => Buf.read?_copy_ge hi _ _,
    exec_txQueue_listening hlo hhi hfree, exec_txQueue_busy hlo hhi hfree⟩

/-- Settles O41: the transmission start with a response, and the end of the countdown without one. -/
theorem tickStartsTheTransmission : Obligations.TickStartsTheTransmission := by
  intro s hast hdly
  have hone : s.dly.toNat = 1 := by rw [hdly]; rfl
  refine ⟨fun hpend hlen => ⟨Buf.copy s.plen.toNat s.pbuf s.txbuf, s.draws + 1, fun i hi => ?_, fun i hi => ?_,
    exec_tick_starts hast hone hpend hlen⟩, fun hfree => ⟨_, exec_tick_listens hast hone hfree⟩⟩
  · exact Buf.read?_copy_lt hi _ _
  · exact Buf.read?_copy_ge hi _ _

/-- Settles O43, by whether the byte taken is the last one. -/
theorem txByteDoneOffersTheNextByte : Obligations.TxByteDoneOffersTheNextByte := by
  intro s hast hlt
  by_cases hlast : s.txidx.toNat + 1 = s.txlen.toNat
  · refine ⟨_, exec_txByteDone_last hast hlast, hlast.symm, rfl, fun _ => ⟨rfl, rfl, ?_⟩, absurd hlast⟩
    exact State.txData_of_not_txValid rfl
  · have hidx : (s.txidx + 1).toNat = s.txidx.toNat + 1 := Count.toNat_succ (Count.lt_max_of_lt hlt)
    refine ⟨_, exec_txByteDone_more hast (by omega), hidx, rfl, (absurd · hlast), fun _ => ⟨hast, fun v hv => ?_⟩⟩
    rw [← hidx] at hv
    exact State.txData_of_txShift (s := ({ s with txidx := s.txidx + 1 } : State).drive 0) hast hv

/-- Settles O36, from the reads after a write. -/
theorem stgWriteWritesOneByte : Obligations.StgWriteWritesOneByte :=
  fun _ b _ hidx => ⟨_, execStgWrite_next.2 ⟨hidx, rfl⟩, Buf.read?_write_same _ _ b,
    fun _ hi => Buf.read?_write_other _ b hi⟩

/-- Settles O38: a slot that is not free accepts nothing. -/
theorem txQueueKeepsThePendingResponse : Obligations.TxQueueKeepsThePendingResponse :=
  fun _ _ => exec_txQueue_pending

/-- Settles O39: the branch of TICK outside PENDING only drives the result. -/
theorem tickOutsidePendingHasNoEffect : Obligations.TickOutsidePendingHasNoEffect :=
  fun _ hast => ⟨_, exec_tick_outside_pending hast⟩

/-- Settles O40: the countdown does not wrap. -/
theorem tickCountsDown : Obligations.TickCountsDown :=
  fun _ hast hdly => ⟨_, dly_sub_one_toNat (by omega), exec_tick_counts hast hdly⟩

/-- Settles O42: the offered byte is `TXBUF[TXIDX]`, and `TXIDX` is 0. -/
theorem txBreakDoneOffersTheFirstByte : Obligations.TxBreakDoneOffersTheFirstByte :=
  fun _ hast => ⟨_, exec_txBreakDone hast, rfl, rfl, rfl, fun _ hv => State.txData_of_txShift rfl hv⟩

/-- Settles O44, by `PEND`. -/
theorem txIdleEndsTheTurnaround : Obligations.TxIdleEndsTheTurnaround := by
  intro s hast
  obtain hpend | hfree := s.pend.eq_false_or_eq_true
  · exact ⟨_, exec_txIdle_pending hast hpend, rfl, rfl, by simp [hpend], fun _ => rfl⟩
  · exact ⟨_, exec_txIdle_free hast hfree, rfl, rfl, fun _ => rfl, by simp [hfree]⟩

/-- Settles O49, from the levels in the states before and after: TX_IDLE leads from TX_DRAIN to PENDING or LISTEN. -/
theorem turnaroundKeepsThePinOrder : Obligations.TurnaroundKeepsThePinOrder := by
  refine ⟨fun s t hs _ ht => ?_, fun s t h => ?_, by decide⟩
  · rw [State.pins_of_receiving (.inr hs), State.pins_of_txBreak ht]
    exact ⟨rfl, rfl⟩
  · obtain ⟨hs, hends⟩ := execTxIdle_next.1 h
    have ht : t.ast = .listen ∨ t.ast = .pending := by
      obtain ⟨-, rfl⟩ | ⟨-, rfl⟩ := hends
      · exact .inr rfl
      · exact .inl rfl
    rw [State.pins_of_txDrain hs, State.pins_of_receiving ht]
    exact ⟨rfl, rfl⟩

end Sys2Proof.Machine
end

section
/-! SUPPORT. Sequences of the arbiter's operations: the countdown to a transmission start, whatever other operations but
RESET fall between (42_arbiter.md R195, R207), and the bytes the transport then takes (R198 to R200, R204). -/

namespace Sys2Proof.Machine

open Sys2Proof

/-! ### The countdown -/

/-- The arbiter holds back the response of length `n` in the slot `buf` for `k` more TICKs. -/
structure State.Awaits (s : State) (buf : Buf) (n : Count) (k : Nat) : Prop where
  ast : s.ast = .pending
  pend : s.pend = true
  pbuf : s.pbuf = buf
  plen : s.plen = n
  dly : s.dly.toNat = k

/-- The response of length `n` in the slot `buf` is in `TXBUF`, and the break is on the line. -/
structure State.Sending (s : State) (buf : Buf) (n : Count) : Prop where
  ast : s.ast = .txBreak
  txlen : s.txlen = n
  byteAt : ∀ i < n.toNat, s.byteAt .txbuf i = Buf.read? buf i

namespace State.Awaits

variable {buf : Buf} {n : Count} {k : Nat}

theorem of_enterPending {s : State} (hpend : s.pend = true) (v : Byte) :
    (s.enterPending.drive v).Awaits s.pbuf s.plen s.cfg.respDelay.toNat :=
  ⟨rfl, hpend, rfl, rfl, rfl⟩

/-- The slot is taken, the transport events are out of phase: only TICK and RESET disturb the countdown. -/
theorem step_other {i : Instr} {s t : State} (hs : s.Awaits buf n k) (h : exec i s = .next t) (htick : i ≠ .tick)
    (hreset : i ≠ .reset) : t.Awaits buf n k := by
  obtain ⟨hast, hpend, hbuf, hlen, hdly⟩ := hs
  cases exec_effect h with
  | answer | staged => exact ⟨hast, hpend, hbuf, hlen, hdly⟩
  | @received c | @lineBroken c | released c => cases c <;> exact ⟨hast, hpend, hbuf, hlen, hdly⟩
  | queuedListening _ _ hfree | queuedBusy _ _ hfree => simp [hpend] at hfree
  | breakEnded hphase | lastByteTaken hphase | byteTaken hphase | drainedPending hphase | drainedFree hphase =>
    simp [hast] at hphase
  | counted | elapsedFree | started => exact absurd rfl htick
  | reset => exact absurd rfl hreset

theorem step_tick {s t : State} (hs : s.Awaits buf n k) (h : exec .tick s = .next t) (hk : 2 ≤ k) :
    t.Awaits buf n (k - 1) := by
  obtain ⟨hast, hpend, hbuf, hlen, rfl⟩ := hs
  cases (exec_tick_counts hast hk).symm.trans h
  exact ⟨hast, hpend, hbuf, hlen, dly_sub_one_toNat (by omega)⟩

/-- The TICK that ends the countdown starts the transmission. -/
theorem step_lastTick {s t : State} (hs : s.Awaits buf n 1) (hn : n.toNat ≤ 18) (h : exec .tick s = .next t) :
    t.Sending buf n := by
  obtain ⟨hast, hpend, rfl, rfl, hdly⟩ := hs
  cases (exec_tick_starts hast hdly hpend hn).symm.trans h
  exact ⟨rfl, rfl, fun i hi => Buf.read?_copy_lt hi _ _⟩

/-- By induction on the operations: each TICK takes one off the delay, and every other operation leaves it. -/
theorem run {ops : List Instr} {s t : State} (hs : s.Awaits buf n k) (hreset : .reset ∉ ops)
    (hrun : runOps ops s = .next t) (hticks : ops.count .tick < k) : t.Awaits buf n (k - ops.count .tick) := by
  induction ops generalizing s k with
  | nil =>
    cases hrun
    exact hs
  | cons i ops ih =>
    obtain ⟨u, hu, hrest⟩ := runOps_cons_next.1 hrun
    obtain ⟨hi, hops⟩ : Instr.reset ≠ i ∧ Instr.reset ∉ ops := by simpa using hreset
    by_cases htick : i = .tick
    · subst htick
      rw [List.count_cons_self] at hticks ⊢
      rw [Nat.add_comm, Nat.sub_add_eq]
      exact ih (hs.step_tick hu (by omega)) hops hrest (by omega)
    · rw [List.count_cons_of_ne htick] at hticks ⊢
      exact ih (hs.step_other hu htick (Ne.symm hi)) hops hrest hticks

/-- A run that ends with the last of the delay's TICKs ends with the transmission start. -/
theorem run_to_lastTick {before : List Instr} {s t : State} (hs : s.Awaits buf n k) (hn : n.toNat ≤ 18)
    (hreset : .reset ∉ before ++ [Instr.tick]) (hrun : runOps (before ++ [.tick]) s = .next t)
    (hticks : (before ++ [Instr.tick]).count .tick = k) : t.Sending buf n := by
  obtain ⟨u, hbefore, htick⟩ := runOps_append_next.1 hrun
  obtain ⟨v, hv, hlast⟩ := runOps_cons_next.1 htick
  cases hlast
  rw [List.count_append, List.count_singleton_self] at hticks
  have hu := hs.run (fun hmem => hreset (List.mem_append_left _ hmem)) hbefore (by omega)
  have hone : k - before.count .tick = 1 := by omega
  rw [hone] at hu
  exact hu.step_lastTick hn hv

end State.Awaits

/-! ### The bytes taken -/

theorem takenBytes_cons {i : Instr} {s t : State} (h : exec i s = .next t) (rest : List Instr) :
    takenBytes (i :: rest) s = (if i = .txByteDone then [s.txData] else []) ++ takenBytes rest t := by
  simp only [takenBytes, h]
  split <;> rfl

theorem takenBytes_append {a : List Instr} {s t : State} (h : runOps a s = .next t) (b : List Instr) :
    takenBytes (a ++ b) s = takenBytes a s ++ takenBytes b t := by
  induction a generalizing s with
  | nil =>
    cases h
    rfl
  | cons i a ih =>
    obtain ⟨u, hu, hrest⟩ := runOps_cons_next.1 h
    rw [List.cons_append, takenBytes_cons hu, takenBytes_cons hu, ih hrest, List.append_assoc]

theorem takenBytes_txByteDone {s t : State} (h : exec .txByteDone s = .next t) (rest : List Instr) :
    takenBytes (.txByteDone :: rest) s = s.txData :: takenBytes rest t :=
  takenBytes_cons h rest

theorem takenBytes_other {i : Instr} {s t : State} (h : exec i s = .next t) (hi : i ≠ .txByteDone)
    (rest : List Instr) : takenBytes (i :: rest) s = takenBytes rest t := by
  rw [takenBytes_cons h, if_neg hi, List.nil_append]

/-- The arbiter is in TX_SHIFT with the bytes `rest` of `TXBUF` still to be taken. -/
structure State.Offers (s : State) (rest : List Byte) : Prop where
  ast : s.ast = .txShift
  length : s.txidx.toNat + rest.length = s.txlen.toNat
  byteAt : ∀ i < rest.length, s.byteAt .txbuf (s.txidx.toNat + i) = rest[i]?

theorem State.Offers.txData_eq {s : State} {b : Byte} {rest : List Byte} (hs : s.Offers (b :: rest)) : s.txData = b :=
  State.txData_of_txShift hs.ast (hs.byteAt 0 (Nat.succ_pos _))

/-- A byte that is not the last is taken, and the others are offered. -/
theorem State.Offers.take {s : State} {b : Byte} {rest : List Byte} (hs : s.Offers (b :: rest)) (hrest : rest ≠ []) :
    ∃ t, exec .txByteDone s = .next t ∧ t.Offers rest ∧
      t = { s with txidx := s.txidx + 1, r := 0, draws := s.draws + 1 } := by
  obtain ⟨hast, hlength, hread⟩ := hs
  have hpos := List.length_pos_iff.2 hrest
  rw [List.length_cons] at hlength hread
  have hidx : (s.txidx + 1).toNat = s.txidx.toNat + 1 :=
    Count.toNat_succ (Count.lt_max_of_lt (d := s.txlen) (by omega))
  refine ⟨_, exec_txByteDone_more hast (by omega), ⟨hast, ?_, fun i hi => ?_⟩, rfl⟩
  · change (s.txidx + 1).toNat + rest.length = s.txlen.toNat
    omega
  · have hnext := hread (i + 1) (by omega)
    rw [List.getElem?_cons_succ] at hnext
    change s.byteAt .txbuf ((s.txidx + 1).toNat + i) = rest[i]?
    rw [hidx, Nat.add_right_comm, Nat.add_assoc, hnext]

/-- By induction on the bytes to come: as many TX_BYTE_DONE take them in order, and the line drains (R199). -/
theorem State.Offers.takeAll {rest : List Byte} (hrest : rest ≠ []) {s : State} (hs : s.Offers rest) :
    takenBytes (List.replicate rest.length .txByteDone) s = rest ∧
    runOps (List.replicate rest.length .txByteDone) s = .next
      { s with txidx := s.txlen, ast := .txDrain, r := 0, draws := s.draws + rest.length } := by
  induction rest generalizing s with
  | nil => exact absurd rfl hrest
  | cons b rest ih =>
    rw [List.length_cons, List.replicate_succ]
    by_cases hlast : rest = []
    · subst hlast
      have hexec := exec_txByteDone_last hs.ast hs.length
      rw [takenBytes_txByteDone hexec, hs.txData_eq]
      exact ⟨rfl, runOps_cons_next.2 ⟨_, hexec, rfl⟩⟩
    · obtain ⟨t, hexec, ht, rfl⟩ := hs.take hlast
      obtain ⟨htaken, hrun⟩ := ih hlast ht
      rw [takenBytes_txByteDone hexec, hs.txData_eq, htaken]
      refine ⟨rfl, runOps_cons_next.2 ⟨_, hexec, hrun.trans ?_⟩⟩
      simp only [Nat.add_assoc, Nat.add_comm 1]

/-! ### The obligations -/

/-- Settles O45: an accepted TX_QUEUE begins the countdown with the staged bytes in the slot. -/
theorem responseStartsAtTheDelaysLastTick : Obligations.ResponseStartsAtTheDelaysLastTick := by
  intro len ops s t hs hast hreset hrun
  obtain ⟨u, hqueue, hops⟩ := runOps_cons_next.1 hrun
  obtain ⟨hlen, rfl⟩ := exec_txQueue_of_listen hs hast hqueue
  have hwait := State.Awaits.of_enterPending (s := s.loadPending len.toNat) rfl 1
  have hn : (s.loadPending len.toNat).plen.toNat = len.toNat := Count.toNat_ofNat (by omega)
  constructor
  · intro hticks
    obtain ⟨hpending, -, -, -, hdly⟩ := hwait.run hreset hops hticks
    refine ⟨hpending, State.de_of_receiving (.inr hpending), ?_⟩
    rw [hdly]
    exact Nat.sub_add_cancel hticks.le
  · rintro before rfl hticks
    obtain ⟨hbreak, htxlen, hread⟩ := hwait.run_to_lastTick (hn.trans_le hlen) hreset hops hticks
    refine ⟨hbreak, by rw [htxlen, hn], fun i hi => ?_⟩
    rw [hread i (by rwa [hn])]
    exact Buf.read?_copy_lt hi _ _

/-- Settles O46: the TX_IDLE begins the countdown with the slot as it is. -/
theorem nextTurnaroundWaitsTheFullDelay : Obligations.NextTurnaroundWaitsTheFullDelay := by
  intro ops s t hs hast hpend hreset hrun
  obtain ⟨u, hidle, hops⟩ := runOps_cons_next.1 hrun
  cases (exec_txIdle_pending hast hpend).symm.trans hidle
  have hwait := State.Awaits.of_enterPending hpend 0
  have hlen : s.plen.toNat ≤ 18 := by
    obtain ⟨-, -, harb, -⟩ := hs
    exact State.plen_le_cap ((State.arbiterInv_iff s).1 harb).1
  constructor
  · intro hticks
    have hpending := (hwait.run hreset hops hticks).ast
    exact ⟨hpending, State.de_of_receiving (.inr hpending)⟩
  · rintro before rfl hticks
    obtain ⟨hbreak, htxlen, hread⟩ := hwait.run_to_lastTick hlen hreset hops hticks
    exact ⟨hbreak, htxlen, hread⟩

/-- Settles O47: TX_BREAK_DONE offers the whole frame, the TX_BYTE_DONEs take it, and TX_IDLE takes no byte. -/
theorem queuedBytesAreTakenInOrder : Obligations.QueuedBytesAreTakenInOrder := by
  intro f s hast hlength hpos hread
  have hbreak := exec_txBreakDone hast
  have hoffers : (({ s with txidx := 0, ast := .txShift } : State).drive 0).Offers f := by
    refine ⟨rfl, (Nat.zero_add _).trans hlength, fun i hi => ?_⟩
    exact (congrArg (s.byteAt .txbuf) (Nat.zero_add i)).trans (hread i hi)
  obtain ⟨htaken, hshift⟩ := hoffers.takeAll (List.length_pos_iff.1 hpos)
  obtain ⟨t, hidle, hoff, -, hfree, hpend⟩ := txIdleEndsTheTurnaround { s with
    txidx := s.txlen, ast := .txDrain, r := 0, draws := s.draws + 1 + f.length } rfl
  have hframe : t.txidx = s.txlen ∧ t.txlen = s.txlen ∧ t.pend = s.pend := by
    obtain h | h := s.pend.eq_false_or_eq_true
    · rw [hpend h]; exact ⟨rfl, rfl, rfl⟩
    · rw [hfree h]; exact ⟨rfl, rfl, rfl⟩
  refine ⟨?_, t, ?_, hoff, hframe⟩
  · rw [txComplete, takenBytes_other hbreak nofun, takenBytes_append hshift, htaken]
    exact (congrArg (f ++ ·) (takenBytes_other hidle nofun [])).trans (List.append_nil f)
  · exact runOps_cons_next.2 ⟨_, hbreak, runOps_append_next.2 ⟨_, hshift, runOps_cons_next.2 ⟨t, hidle, rfl⟩⟩⟩

end Sys2Proof.Machine
end

section
/-! SUPPORT. The control operations (43_control.md R230 to R233): the bytes of the views from their fields, STAT_READ as an
equation for each row of R232's table, and RESET as an equation. -/

namespace Sys2Proof.Machine

open Sys2Proof

/-! ### The bytes of the views (R232) -/

/-- A byte is its upper five bits and its low three, as the arbiter status divides it. -/
theorem byte_eq_flags_append (v : Byte) : v = BitVec.ofBool (v.getLsbD 7) ++ BitVec.ofBool (v.getLsbD 6) ++
    BitVec.ofBool (v.getLsbD 5) ++ BitVec.ofBool (v.getLsbD 4) ++ BitVec.ofBool (v.getLsbD 3) ++ v.extractLsb' 0 3 := by
  revert v
  decide

/-- A byte is its top bit, its middle five and its low two, as the parser status divides it. -/
theorem byte_eq_top_append (v : Byte) :
    v = BitVec.ofBool (v.getLsbD 7) ++ v.extractLsb' 2 5 ++ v.extractLsb' 0 2 := by
  revert v
  decide

theorem State.eq_arbiterByte {s : State} {v : Byte} (hast : v.extractLsb' 0 3 = s.ast.code)
    (hpend : v.getLsbD 3 = s.pend) (hrxEn : v.getLsbD 4 = s.rxEn) (hde : v.getLsbD 5 = s.de)
    (hbrk : v.getLsbD 6 = s.brk) (hvalid : v.getLsbD 7 = s.txValid) : v = s.arbiterByte := by
  rw [byte_eq_flags_append v, hast, hpend, hrxEn, hde, hbrk, hvalid, State.arbiterByte]

theorem Chan.eq_parserByte {k : Chan} {v : Byte} (hpst : v.extractLsb' 0 2 = k.pst.code)
    (hcnt : v.extractLsb' 2 5 = k.cnt) (htop : v.getLsbD 7 = false) : v = k.parserByte := by
  rw [byte_eq_top_append v, hpst, hcnt, htop, Chan.parserByte]
  rfl

@[simp] theorem Count.toNat_zext (c : Count) : (Count.zext c).toNat = c.toNat :=
  BitVec.toNat_setWidth_of_le (by decide)

theorem Count.eq_zext {c : Count} {v : Byte} (h : v.toNat = c.toNat) : v = Count.zext c :=
  BitVec.eq_of_toNat_eq (h.trans (Count.toNat_zext c).symm)

theorem State.viewInBounds_txData {s : State} (h : s.txValid = true → s.txidx.toNat ≤ 17) :
    s.viewInBounds .txData = true := by
  cases hvalid : s.txValid with
  | false => simp [State.viewInBounds, hvalid]
  | true =>
    have hlt : s.txidx.toNat < Config.cap := Nat.lt_succ_of_le (h hvalid)
    simp [State.viewInBounds, hlt]

/-! ### STAT_READ and RESET as equations -/

/-- STAT_READ of a row of R232's table drives the row's view and changes nothing else. -/
theorem exec_statRead {s : State} {c : Channel} {sel : Byte} {view : View} (hsel : selectorOperand c sel = some view)
    (hin : s.viewInBounds view = true) : exec (.statRead c sel) s = .next (s.drive (s.view view)) :=
  execStatRead_next.2 ⟨view, hsel, hin, rfl⟩

theorem exec_statRead_of_eq_view {s : State} {c : Channel} {sel v : Byte} {view : View}
    (hsel : selectorOperand c sel = some view) (hin : s.viewInBounds view = true) (hv : v = s.view view) :
    ∃ d, exec (.statRead c sel) s = .next { s with r := v, draws := d } :=
  ⟨s.draws + 1, hv ▸ exec_statRead hsel hin⟩

/-- Selector 0 names the arbiter status, and no other selector does. -/
theorem selectorOperand_arbiter_iff {c : Channel} {sel : Byte} {view : View}
    (h : selectorOperand c sel = some view) : view = .arbiter ↔ sel = 0 := by
  have hzero : sel = 0 ↔ sel.toNat = 0 := BitVec.toNat_inj.symm
  rw [hzero]
  obtain ⟨-, ⟨hsel, rfl⟩ | ⟨hsel, rfl⟩ | ⟨hsel, rfl⟩ | ⟨hsel, rfl⟩ | ⟨hsel, rfl⟩ | ⟨hsel, rfl⟩⟩ | ⟨hsel, rfl⟩ |
    ⟨hsel, rfl⟩ := (selectorOperand_eq_some c sel view).1 h <;> simp [hsel]

/-- At reset only the arbiter status is not zero: the receiver is on (R36, R41). -/
theorem State.reset_view (view : View) : State.reset.view view = if view = .arbiter then 0x10 else 0 := by
  cases view with
  | parser c | expected c => cases c <;> rfl
  | _ => rfl

theorem exec_reset (s : State) : exec .reset s = .next (s.toReset.drive 0) := rfl

/-! ### The obligations -/

/-- Settles O51: row by row from the view's fields, then from the refusals' law and the views at reset. -/
theorem statReadGivesItsViews : Obligations.StatReadGivesItsViews := by
  refine ⟨?_, fun s c sel => ?_, fun c sel t h => ?_⟩
  · rintro s c sel v (⟨rfl, rfl, hast, hpend, hrxEn, hde, hbrk, hvalid⟩ | ⟨rfl, rfl, hv⟩ | ⟨rfl, rfl, hv⟩ |
      ⟨rfl, rfl, hv⟩ | ⟨rfl, rfl, hv⟩ | ⟨rfl, hpst, hcnt, htop⟩ | ⟨rfl, hv⟩ | ⟨rfl, rfl, hin, hv⟩)
    · exact exec_statRead_of_eq_view (view := .arbiter) rfl rfl (State.eq_arbiterByte hast hpend hrxEn hde hbrk hvalid)
    · exact exec_statRead_of_eq_view (view := .dly) rfl rfl hv
    · exact exec_statRead_of_eq_view (view := .txidx) rfl rfl (Count.eq_zext hv)
    · exact exec_statRead_of_eq_view (view := .txlen) rfl rfl (Count.eq_zext hv)
    · exact exec_statRead_of_eq_view (view := .plen) rfl rfl (Count.eq_zext hv)
    · exact exec_statRead_of_eq_view (view := .parser c) rfl rfl (Chan.eq_parserByte hpst hcnt htop)
    · exact exec_statRead_of_eq_view (view := .expected c) rfl rfl (Count.eq_zext hv)
    · exact exec_statRead_of_eq_view (view := .txData) rfl (State.viewInBounds_txData hin) hv
  · exact execStatRead_eq_refused.trans (by simp)
  · obtain ⟨view, hsel, -, rfl⟩ := execStatRead_next.1 h
    rw [State.drive_r, State.reset_view]
    simp only [selectorOperand_arbiter_iff hsel]

/-- Settles O50: NOP is done with 0 on the state as it is. -/
theorem nopChangesNothing : Obligations.NopChangesNothing :=
  fun _ => rfl

/-- Settles O53: a second RESET finds every element at its reset value, and the model's own fields stay (log 14). -/
theorem resetAlwaysCompletes : Obligations.ResetAlwaysCompletes := by
  refine fun s => ⟨exec_reset s, fun t u hfirst hsecond => ?_⟩
  obtain rfl : s.toReset.drive 0 = t := (done_eq_next _ _ _).1 hfirst
  obtain rfl : (s.toReset.drive 0).toReset.drive 0 = u := (done_eq_next _ _ _).1 hsecond
  rfl

end Sys2Proof.Machine
end

section
/-! SUPPORT. Noninterference of the two channels (60_exceptions.md R268): an operation on LINK runs alike on every state with
the same LINK, and every other operation runs alike whatever LINK holds. -/

namespace Sys2Proof.Machine

open Sys2Proof

/-! ### Operations on LINK -/

/-- STAT_READ on LINK has LINK's parser views only (43_control.md R232). -/
theorem selectorOperand_link {sel : Byte} {view : View} (h : selectorOperand .link sel = some view) :
    view = .parser .link ∨ view = .expected .link := by
  obtain ⟨hbus, -⟩ | ⟨-, hview⟩ | ⟨-, hview⟩ := (selectorOperand_eq_some .link sel view).1 h
  · exact absurd hbus (by decide)
  · exact .inl hview
  · exact .inr hview

/-- An operation on LINK reads LINK and the draw number, and writes these and the result: transplanted to any state `u`, its
reads give the same writes, and the rest of `u` stays. -/
theorem exec_onLink_transplant {i : Instr} {s t : State} (h : exec i s = .next t)
    (hi : operatedChannel i = some .link) (u : State) :
    exec i { u with link := s.link, draws := s.draws } = .next { u with link := t.link, r := t.r, draws := t.draws } := by
  cases i with
  | rxByte c | rxBreak c | frmInfo c | frmRelease c =>
    obtain rfl : c = .link := Option.some.inj hi
    obtain rfl := (done_eq_next _ _ _).1 h
    rfl
  | frmRead c idx =>
    obtain rfl : c = .link := Option.some.inj hi
    obtain ⟨hidx, rfl⟩ := execFrmRead_next.1 h
    exact execFrmRead_next.2 ⟨hidx, rfl⟩
  | statRead c sel =>
    obtain rfl : c = .link := Option.some.inj hi
    obtain ⟨view, hsel, -, rfl⟩ := execStatRead_next.1 h
    obtain rfl | rfl := selectorOperand_link hsel <;> exact exec_statRead hsel rfl
  | nop | crcStep | sumStep | reset => nomatch hi
  | stgWrite | txQueue | tick | txBreakDone | txByteDone | txIdle => nomatch Option.some.inj hi

/-- The frame of an operation on LINK. -/
theorem exec_onLink_frame {i : Instr} {s t : State} (h : exec i s = .next t) (hi : operatedChannel i = some .link) :
    t = { s with link := t.link, r := t.r, draws := t.draws } :=
  Host.Outcome.next.inj (h.symm.trans (exec_onLink_transplant h hi s))

/-- What an operation on LINK reads is LINK and the draw number. -/
theorem exec_onLink_congr {i : Instr} {s s' t t' : State} (hi : operatedChannel i = some .link) (hlink : s.link = s'.link)
    (hdraws : s.draws = s'.draws) (h : exec i s = .next t) (h' : exec i s' = .next t') :
    t.link = t'.link ∧ t.r = t'.r := by
  have htrans := exec_onLink_transplant h hi s'
  rw [hlink, hdraws] at htrans
  obtain rfl := Host.Outcome.next.inj (htrans.symm.trans h')
  exact ⟨rfl, rfl⟩

/-- Every performed operation takes one draw number (log 4). -/
theorem exec_draws {i : Instr} {s t : State} (h : exec i s = .next t) : t.draws = s.draws + 1 := by
  cases exec_effect h with
  | received | lineBroken | released => rw [State.drive_draws, State.setChan_draws]
  | _ => rfl

/-! ### Operations that are not on LINK -/

/-- Of the operations that are not on LINK only RESET writes LINK: the other writers of a channel are its own parser
events and its release, and the transmission start, which writes BUS. -/
theorem exec_keeps_link {i : Instr} {s t : State} (h : exec i s = .next t) (hi : operatedChannel i ≠ some .link)
    (hreset : i ≠ .reset) : t.link = s.link := by
  obtain hkept | ⟨b, rfl, -⟩ | ⟨rfl, -⟩ | ⟨rfl, -⟩ | ⟨-, hbus, -⟩ | ⟨hr, -⟩ := exec_chan_cases h .link
  · exact hkept
  · exact absurd rfl hi
  · exact absurd rfl hi
  · exact absurd rfl hi
  · nomatch hbus
  · exact absurd hr hreset

/-- No view on BUS reads LINK (43_control.md R232). -/
theorem State.view_setChan_link (s : State) (k : Chan) {sel : Byte} {view : View}
    (h : selectorOperand .bus sel = some view) : (s.setChan .link k).view view = s.view view := by
  obtain ⟨-, ⟨-, rfl⟩ | ⟨-, rfl⟩ | ⟨-, rfl⟩ | ⟨-, rfl⟩ | ⟨-, rfl⟩ | ⟨-, rfl⟩⟩ | ⟨-, rfl⟩ | ⟨-, rfl⟩ :=
    (selectorOperand_eq_some .bus sel view).1 h <;> rfl

/-- An operation that is neither RESET nor on LINK does the same whatever LINK holds, and LINK still holds it after. No
condition of its meaning reads LINK: with `onNext` taken inside the branches, both sides have the same branches. -/
theorem exec_setChan_link {i : Instr} (hi : operatedChannel i ≠ some .link) (hreset : i ≠ .reset) (s : State) (k : Chan) :
    exec i (s.setChan .link k) = onNext (exec i s) fun t => .next (t.setChan .link k) := by
  cases i with
  | nop | crcStep | sumStep => rfl
  | reset => exact absurd rfl hreset
  | frmInfo c | frmRelease c =>
    cases c with
    | link => exact absurd rfl hi
    | bus => rfl
  | rxByte c | rxBreak c =>
    cases c with
    | link => exact absurd rfl hi
    | bus => simp only [exec, execRxByte, execRxBreak, onNext_ite]; rfl
  | frmRead c idx =>
    cases c with
    | link => exact absurd rfl hi
    | bus => simp only [exec, execFrmRead]; cases indexOperand idx <;> rfl
  | statRead c sel =>
    cases c with
    | link => exact absurd rfl hi
    | bus =>
      simp only [exec, execStatRead]
      cases hsel : selectorOperand .bus sel with
      | none => rfl
      | some view => simp only [onNext_ite, State.view_setChan_link s k hsel]; cases view <;> rfl
  | stgWrite idx => simp only [exec, execStgWrite]; cases indexOperand idx <;> rfl
  | txQueue len =>
    simp only [exec, execTxQueue]
    cases lengthOperand len with
    | none => rfl
    | some n => simp only [onNext_ite]; rfl
  | tick => simp only [exec, execTick, startTx, onNext_ite]; rfl
  | txBreakDone | txByteDone | txIdle =>
    simp only [exec, execTxBreakDone, execTxByteDone, execTxIdle, onNext_ite]; rfl

/-! ### The clauses of R268 -/

/-- Reads of LINK: two runs of one operation from states that agree on LINK and the draw number. -/
theorem exec_congr_link {i : Instr} {s s' t t' : State} (hlink : s.link = s'.link) (hdraws : s.draws = s'.draws)
    (h : exec i s = .next t) (h' : exec i s' = .next t') :
    t.link = t'.link ∧ (operatedChannel i = some .link → t.r = t'.r) := by
  by_cases hi : operatedChannel i = some .link
  · obtain ⟨hl, hr⟩ := exec_onLink_congr hi hlink hdraws h h'
    exact ⟨hl, fun _ => hr⟩
  · refine ⟨?_, fun hon => absurd hon hi⟩
    by_cases hreset : i = .reset
    · subst hreset
      obtain rfl := (done_eq_next _ _ _).1 h
      obtain rfl := (done_eq_next _ _ _).1 h'
      rfl
    · rw [exec_keeps_link h hi hreset, exec_keeps_link h' hi hreset, hlink]

/-- Reads outside LINK: two runs of one operation from states that differ in LINK only. RESET overwrites the difference. -/
theorem exec_differs_in_link {i : Instr} {k : Chan} {s t t' : State} (h : exec i s = .next t)
    (h' : exec i (s.setChan .link k) = .next t') :
    t' = { t with link := t'.link, r := t'.r } ∧ (operatedChannel i ≠ some .link → t'.r = t.r) := by
  by_cases hi : operatedChannel i = some .link
  · refine ⟨?_, absurd hi⟩
    have hdraws : t'.draws = t.draws := (exec_draws h').trans (exec_draws h).symm
    calc t'
      _ = { s with link := t'.link, r := t'.r, draws := t'.draws } :=
        exec_onLink_frame (s := s.setChan .link k) h' hi
      _ = { t with link := t'.link, r := t'.r } := by rw [hdraws, exec_onLink_frame h hi]
  · by_cases hreset : i = .reset
    · subst hreset
      obtain rfl : t = t' := Host.Outcome.next.inj (h.symm.trans h')
      exact ⟨rfl, fun _ => rfl⟩
    · rw [exec_setChan_link hi hreset, h] at h'
      obtain rfl := Host.Outcome.next.inj h'
      exact ⟨rfl, fun _ => rfl⟩

/-! ### The obligation -/

/-- Settles O34: an operation on LINK by its transplant to another state, any other by the same branches whatever LINK
holds. -/
theorem channelsDoNotInterfere : Obligations.ChannelsDoNotInterfere :=
  ⟨fun _ _ _ _ _ hlink hdraws => exec_congr_link hlink hdraws, fun _ _ _ _ _ => exec_differs_in_link,
    fun _ _ _ => exec_keeps_link, fun _ _ _ => exec_onLink_frame⟩

end Sys2Proof.Machine
end

section
/-! SUPPORT. The parameters and the issued words over a step (70_reset_and_hazards.md R282, log 1): an operation, RESET
included (log 14), writes neither, and the step itself takes the word that it performs. -/

namespace Sys2Proof.Machine

open Sys2Proof

/-- The issued words wait through every operation: `exec_withCommands` with the state's own queue in place of itself. -/
theorem exec_cmds {i : Instr} {s t : State} (h : exec i s = .next t) : t.cmds = s.cmds := by
  have hsame : exec i s = onNext (exec i s) fun u => .next (u.withCommands s.cmds) := exec_withCommands s s.cmds i
  have hkept : t = t.withCommands s.cmds := by simpa only [h, onNext_next, Host.Outcome.next.injEq] using hsame
  calc t.cmds
    _ = (t.withCommands s.cmds).cmds := congrArg State.cmds hkept
    _ = s.cmds := rfl

/-- Settles O58, by the cases of a step: with no word issued nothing changes, a refused word leaves no next state, and a
performed operation starts from the queue without its word and keeps it. -/
theorem everyStepKeepsTheParameters : Obligations.EveryStepKeepsTheParameters := by
  intro s t h
  obtain ⟨hnone, hstep⟩ | ⟨w, rest, hissued, ⟨e, -, hstep⟩ | ⟨i, -, hstep⟩⟩ := step_cases s
  all_goals rw [hstep] at h
  · obtain rfl := Host.Outcome.next.inj h
    exact ⟨rfl, by rw [hnone, List.tail_nil]⟩
  · nomatch h
  · have hcfg := exec_cfg h
    exact ⟨hcfg, by rw [exec_cmds h, hissued, List.tail_cons]⟩

end Sys2Proof.Machine
end
